-- ==== Sys2Proof/Word.lean ====
section
/-! DEFINITION. The word types of the fabric (00_scope.md R5, R6; 30_encoding.md R71). Every number of the fabric is
unsigned (20_memory.md R58). -/

namespace Sys2Proof

/-- One byte of memory, one record byte, the `cmd` field. -/
abbrev Byte := BitVec 8

/-- A register-bank cell, a register-bank offset key, a line vector (`REG_W`, `OFF_W`: R5). -/
abbrev Word := BitVec 32

/-- A bus address, the operand fields `b` and `c` (`ADDR_W`: R5; R71). -/
abbrev DWord := BitVec 64

/-- The 16-bit id space that slaves, devices and masters share (R10, R40, R71). -/
abbrev Ident := BitVec 16

/-- One request record `Q`, bit 0 the least significant bit of `cmd` (R71). -/
abbrev Request := BitVec 152

/-- One response record `P`, bit 0 the least significant bit of `status` (R71). -/
abbrev ResponseRecord := BitVec 72

end Sys2Proof
end

