-- ==== Sys2Proof/Config.lean ====
section
/-! DEFINITION. What a board fixes (`Cfg`, 00_scope.md R5) and the values and functions the spec leaves open, as opaque
constants. The record `Cfg` is plain data; the machine carries it in its state and no step writes it, so that a statement
about every state is a statement about every board (log 2). -/

namespace Sys2Proof

/-- Direction of an access, `dir` of R7. -/
inductive Dir where
  | read
  | write
  deriving DecidableEq, Repr

/-- The two interrupt controllers, `c` of R7 (exactly one of each: 92_eei_decisions.md D36). -/
inductive Ctrl where
  | sec
  | pri
  deriving DecidableEq, Repr

/-- One line of one controller. -/
structure LineRef where
  ctrl : Ctrl
  id : Nat
  deriving DecidableEq, Repr

/-- `DEFAULT[s]`, the default handler (41_register_bank.md R118). `fn` is the spec's `Fn(r, w)`: its two functions are
the open constants `Config.readDefault` and `Config.writeDefault`. -/
inductive DefaultHandler where
  | fault
  | zero
  | const (k : Word)
  | fn
  deriving DecidableEq, Repr

/-- `SUBWORD[s]` (41_register_bank.md R119): "The only value this spec defines is `Unsupported`". -/
inductive Subword where
  | unsupported
  deriving DecidableEq, Repr

/-- One row of `REGS[s]`: the registers board assembly adds to a generic bank (45_board_assembly.md R221). -/
structure RegDecl where
  offset : Word
  name : String
  resetValue : Word
  deriving DecidableEq, Repr

/-- The parameters of a generic register bank (R5). `rdOvr` and `wrOvr` list the offsets that have an override; what an
override does is open (`Config.readOverride`, `Config.writeOverride`). `wl64 = none` is the unrestricted 64-bit
whitelist (R116). -/
structure BankCfg where
  regs : List RegDecl := []
  reserved : List Nat := []
  wl64 : Option (List Nat) := none
  rdOvr : List Word := []
  wrOvr : List Word := []
  dflt : DefaultHandler := .fault
  subword : Subword := .unsupported
  deriving DecidableEq, Repr

/-- The kinds of slave (40_slave_core.md R90; 10_state.md R21 to R23). `ram` holds `RAM_SIZE[s]`. -/
inductive SlaveKind where
  | ram (size : Nat)
  | sec
  | pri
  | tmr
  | bank (c : BankCfg)
  | other
  deriving DecidableEq, Repr

/-- `DEV_ERROR[d]` (44_device_threads.md R203): constantly false for every device this spec defines; `always` is the
instance 95_test_vectors.md section 2.7 uses ("true at the next tick"); `unspecified` is the open predicate
`Config.devError` (log 7). -/
inductive ErrorPredicate where
  | never
  | always
  | unspecified
  deriving DecidableEq, Repr

/-- `PRIO_POLICY` (43_interrupt_fabric.md R184): the smallest id, or an open choice function (log 8). -/
inductive PrioPolicy where
  | smallest
  | unspecified
  deriving DecidableEq, Repr

/-- One row of `MEMORY_MAP` (R5; 20_memory.md R43). -/
structure MapRow where
  name : String
  low : DWord
  high : DWord
  slave : Ident
  deriving DecidableEq, Repr

/-- One wire of the board: device `dev` drives line `id` of controller `ctrl` (60_exceptions.md R238). -/
structure Wire where
  ctrl : Ctrl
  dev : Ident
  id : DWord
  deriving DecidableEq, Repr

/-- The configuration record of 00_scope.md R5. SEC and PRI have their ids here, so a board has exactly one of each
(92_eei_decisions.md D36); `slaves` lists the other slaves. `quantum` is read by no rule (70_reset_and_hazards.md
R275). -/
structure Cfg where
  secId : Ident
  priId : Ident
  nSec : Nat
  nPri : Nat
  cascade : Option Nat
  fiqsel : Word
  slaves : List (Ident × SlaveKind)
  masterFilter : List Ident := []
  irqOut : List (Ident × LineRef) := []
  tickers : List Ident := []
  devErrors : List (Ident × ErrorPredicate) := []
  prio : PrioPolicy := .smallest
  quantum : List (Ident × Nat) := []
  memoryMap : List MapRow := []
  wires : List Wire := []
  deriving DecidableEq, Repr

/-- A register cell, `RegisterEntry` (10_state.md R10, R11). -/
structure RegCell where
  name : String
  resetValue : Word
  currentValue : Word
  deriving DecidableEq, Repr

/-- `run[d]` of an autonomous device (10_state.md R24). -/
inductive RunState where
  | idle
  | running
  | inert
  | halted
  deriving DecidableEq, Repr

/-- What drives a line: a device, or for the cascade line the pseudo-device `SEC_AGGR` (10_state.md R18). -/
inductive LineDriver where
  | dev (d : Ident)
  | secAggr
  deriving DecidableEq, Repr

/-- The lifecycle phase (10_state.md R13). -/
inductive Phase where
  | config
  | run
  | halted
  | failed
  deriving DecidableEq, Repr

/-- One entry of the range table, the half-open range `[low, high)` bound to a slave (10_state.md R14). -/
structure Range where
  low : DWord
  high : DWord
  slave : Ident
  deriving DecidableEq, Repr

/-- The stored state of one interrupt controller (10_state.md R16, R18). The enable mask is a register cell (R10). -/
structure Controller where
  raw : Word
  conn : List (Nat × LineDriver)
  deriving DecidableEq, Repr

/-- What a device's function sees of one of its own cells. The name is left out: "no rule reads it" (10_state.md R11). -/
structure CellView where
  resetValue : Word
  currentValue : Word
  deriving DecidableEq, Repr, Inhabited

/-- What an override or a tick of device `d` may read, "any state of device `s`": `d`'s own cells, by offset, and `d`'s other
state (41_register_bank.md R113, R115; 44_device_threads.md R201; 93_implementation_defined.md U4, U17). `phase` and `run[d]` are not the state of device `d`
(44_device_threads.md R200 lists the three apart). -/
structure DevView where
  cells : List (Nat × CellView)
  other : List DWord
  deriving DecidableEq, Repr, Inhabited

/-- The `state` that the functions of an `Other` slave and an `Fn` default handler take (40_slave_core.md R94, R95, R103;
41_register_bank.md R118): the whole record of 10_state.md R10, and the device's own other state. -/
structure StateView where
  phase : Phase
  ranges : List Range
  bank : List (Nat × RegCell)
  ram : List (Nat × Byte)
  sec : Controller
  pri : Controller
  run : List (Nat × RunState)
  shouldHalt : Bool
  other : List DWord
  deriving DecidableEq, Repr

/-- What a function of device `d` may do: new current values for `d`'s own cells, new other state, and `set_line` calls,
in order (41_register_bank.md R113; 44_device_threads.md R201; 40_slave_core.md R103). A reset value never changes
(41_register_bank.md R114). DESIGN CHOICE (log 20): each call names a line of its own, not only the pair `IRQ_OUT[d]`.
DESIGN CHOICE (log 22): the effect of a read may call `set_line` too, and may clear a line. -/
structure DevEffect where
  cellWrites : List (Word × Word)
  other : List DWord
  lines : List (Ctrl × Nat × Bool)
  deriving Repr, Inhabited

/-- FREE VALUE (log 4). The byte RAM slave `s` holds at local offset `off` before any write: "unspecified: a value fixed
at reset that the model must not assume" (10_state.md R26; 93_implementation_defined.md U1). -/
opaque Config.ramResetByte (s : Ident) (off : Nat) : Byte

/-- OPEN (log 5). `SUPPORTS[s]` of an `Other` slave: pure, state-independent (40_slave_core.md R91, R103). The master is
the one the slave's functions see, `seenMaster` (20_memory.md R42; log 6). -/
opaque Config.supportsOther (s m : Ident) (off len : Nat) (dir : Dir) : Bool

/-- OPEN (log 6). `SUPPORTS_M[s]`, the optional dependence of a capability probe on the master (R5). DESIGN CHOICE: the spec
gives it no signature; here it takes the arguments of `SUPPORTS[s]` but for the direction, because a kind this spec defines
answers the same in both (42_bus.md R159). An `Other` slave's own `SUPPORTS` has the direction. -/
opaque Config.supportsMaster (s m : Ident) (off len : Nat) : Bool

/-- OPEN (log 5). `READ[s]` of an `Other` slave (40_slave_core.md R94, R103), with the master as `seenMaster` gives it. -/
opaque Config.readOther (s m : Ident) (off len : Nat) (state : StateView) : DWord × DevEffect

/-- OPEN (log 5). `WRITE[s]` of an `Other` slave (40_slave_core.md R95, R103), with the master as `seenMaster` gives it. -/
opaque Config.writeOther (s m : Ident) (off len : Nat) (v : DWord) (state : StateView) : DevEffect

/-- OPEN (log 5). `RD_OVR[s][off]` of a generic bank (41_register_bank.md R113). -/
opaque Config.readOverride (s : Ident) (off : Nat) (view : DevView) : Word × DevEffect

/-- OPEN (log 5). `WR_OVR[s][off]` of a generic bank (41_register_bank.md R115). -/
opaque Config.writeOverride (s : Ident) (off : Nat) (v : Word) (view : DevView) : DevEffect

/-- OPEN (log 5). The read function of `DEFAULT[s] = Fn(r, w)` (41_register_bank.md R118). -/
opaque Config.readDefault (s : Ident) (off : Nat) (state : StateView) : Word × DevEffect

/-- OPEN (log 5). The write function of `DEFAULT[s] = Fn(r, w)` (41_register_bank.md R118). -/
opaque Config.writeDefault (s : Ident) (off : Nat) (v : Word) (state : StateView) : DevEffect

/-- OPEN (log 5). `TICK[d]` of a device other than TMR (44_device_threads.md R200). -/
opaque Config.tick (d : Ident) (view : DevView) : DevEffect

/-- OPEN (log 7). `DEV_ERROR[d]` of a device whose predicate is left open (44_device_threads.md R203). -/
opaque Config.devError (d : Ident) (view : DevView) : Bool

/-- OPEN (log 8). `PRIO_POLICY` when it is left open; used only where it answers a member of the set
(43_interrupt_fabric.md R184). -/
opaque Config.prioPolicy (set : List Nat) : Nat

end Sys2Proof
end

