-- ==== Sys2Proof/Syntax.lean ====
section
/-! DEFINITION. The 27 operations of spec/opcode_table.json as typed terms, operands in the order of the source's
signatures (30_encoding.md R72, R79). Values are typed at their width (R77); ignored fields are no operands; the name of
`add_register` is not encoded (R72). -/

namespace Sys2Proof

/-- The operations (30_encoding.md R74). A probe's `len` is the source's unrestricted number of bytes; only 1, 2, 4 and 8
can be encoded (R72), which `Instr.wf` checks. -/
inductive Instr where
  | read8 (master : Ident) (addr : DWord)
  | read16 (master : Ident) (addr : DWord)
  | read32 (master : Ident) (addr : DWord)
  | read64 (master : Ident) (addr : DWord)
  | read16u (master : Ident) (addr : DWord)
  | read32u (master : Ident) (addr : DWord)
  | read64u (master : Ident) (addr : DWord)
  | write8 (master : Ident) (addr : DWord) (value : Byte)
  | write16 (master : Ident) (addr : DWord) (value : BitVec 16)
  | write32 (master : Ident) (addr : DWord) (value : Word)
  | write64 (master : Ident) (addr : DWord) (value : DWord)
  | write16u (master : Ident) (addr : DWord) (value : BitVec 16)
  | write32u (master : Ident) (addr : DWord) (value : Word)
  | write64u (master : Ident) (addr : DWord) (value : DWord)
  | canread (master : Ident) (addr : DWord) (len : Nat)
  | canwrite (master : Ident) (addr : DWord) (len : Nat)
  | irqQ
  | fiqQ
  | setLineSec (dev : Ident) (id : DWord) (value : Bool)
  | setLinePri (dev : Ident) (id : DWord) (value : Bool)
  | tick (dev : Ident)
  | addSlave (slave : Ident) (low high : DWord)
  | addRegister (slave : Ident) (offset resetValue : Word)
  | connectLineSec (dev : Ident) (id : DWord)
  | connectLinePri (dev : Ident) (id : DWord)
  | startAll
  | haltAll
  deriving DecidableEq, Repr

/-- The port an operation is presented at: the class `cmd[7:6]` of 30_encoding.md R73. -/
inductive Port where
  | data
  | probeQuery
  | device
  | assembly
  deriving DecidableEq, Repr

/-- The port of each operation (30_encoding.md R73; the agents of 60_exceptions.md R250). -/
def Instr.port : Instr → Port
  | .read8 .. | .read16 .. | .read32 .. | .read64 .. | .read16u .. | .read32u .. | .read64u .. => .data
  | .write8 .. | .write16 .. | .write32 .. | .write64 .. | .write16u .. | .write32u .. | .write64u .. => .data
  | .canread .. | .canwrite .. | .irqQ | .fiqQ => .probeQuery
  | .setLineSec .. | .setLinePri .. | .tick .. => .device
  | .addSlave .. | .addRegister .. | .connectLineSec .. | .connectLinePri .. | .startAll | .haltAll => .assembly

/-- The mnemonic of each operation, as the assembler of 30_encoding.md R79 spells it. -/
def Instr.mnemonic : Instr → String
  | .read8 .. => "READ8"
  | .read16 .. => "READ16"
  | .read32 .. => "READ32"
  | .read64 .. => "READ64"
  | .read16u .. => "READ16U"
  | .read32u .. => "READ32U"
  | .read64u .. => "READ64U"
  | .write8 .. => "WRITE8"
  | .write16 .. => "WRITE16"
  | .write32 .. => "WRITE32"
  | .write64 .. => "WRITE64"
  | .write16u .. => "WRITE16U"
  | .write32u .. => "WRITE32U"
  | .write64u .. => "WRITE64U"
  | .canread .. => "CANREAD"
  | .canwrite .. => "CANWRITE"
  | .irqQ => "IRQ_Q"
  | .fiqQ => "FIQ_Q"
  | .setLineSec .. => "SET_LINE_SEC"
  | .setLinePri .. => "SET_LINE_PRI"
  | .tick .. => "TICK"
  | .addSlave .. => "ADD_SLAVE"
  | .addRegister .. => "ADD_REGISTER"
  | .connectLineSec .. => "CONNECT_LINE_SEC"
  | .connectLinePri .. => "CONNECT_LINE_PRI"
  | .startAll => "START_ALL"
  | .haltAll => "HALT_ALL"

/-- The operands of each operation as numbers, in the order of 30_encoding.md R79 (the master first, never omitted). -/
def Instr.operands : Instr → List Nat
  | .read8 m a | .read16 m a | .read32 m a | .read64 m a => [m.toNat, a.toNat]
  | .read16u m a | .read32u m a | .read64u m a => [m.toNat, a.toNat]
  | .write8 m a v => [m.toNat, a.toNat, v.toNat]
  | .write16 m a v | .write16u m a v => [m.toNat, a.toNat, v.toNat]
  | .write32 m a v | .write32u m a v => [m.toNat, a.toNat, v.toNat]
  | .write64 m a v | .write64u m a v => [m.toNat, a.toNat, v.toNat]
  | .canread m a len | .canwrite m a len => [m.toNat, a.toNat, len]
  | .irqQ | .fiqQ | .startAll | .haltAll => []
  | .setLineSec d i v | .setLinePri d i v => [d.toNat, i.toNat, v.toNat]
  | .tick d => [d.toNat]
  | .addSlave s l h => [s.toNat, l.toNat, h.toNat]
  | .addRegister s o r => [s.toNat, o.toNat, r.toNat]
  | .connectLineSec d i | .connectLinePri d i => [d.toNat, i.toNat]

/-- One line of the assembler syntax of 30_encoding.md R79, numbers in decimal C notation. -/
def Instr.asm (i : Instr) : String :=
  match i.operands with
  | [] => i.mnemonic
  | os => i.mnemonic ++ " " ++ ", ".intercalate (os.map fun n => toString n)

end Sys2Proof
end

