-- ==== Sys2Proof/WellFormed.lean ====
section
/-! DEFINITION. Which operations can be spelled as a request record, and which configurations are boards. -/

namespace Sys2Proof

/-- "only 1, 2, 4 and 8 can be encoded, because those are the only widths an access can have" (30_encoding.md R72). -/
def isAccessLen (len : Nat) : Bool := len == 1 || len == 2 || len == 4 || len == 8

/-- An operation is well-formed when a request record spells it (30_encoding.md R72). -/
def Instr.wf : Instr → Bool
  | .canread _ _ len | .canwrite _ _ len => isAccessLen len
  | _ => true

/-- `1 ≤ N_c ≤ 32` (00_scope.md R5; 92_eei_decisions.md D16). -/
def Cfg.lineCountsOk (c : Cfg) : Bool :=
  decide (1 ≤ c.nSec ∧ c.nSec ≤ 32 ∧ 1 ≤ c.nPri ∧ c.nPri ≤ 32)

/-- `CASCADE_LINE` is a primary line or `none` (00_scope.md R5). -/
def Cfg.cascadeOk (c : Cfg) : Bool :=
  match c.cascade with
  | none => true
  | some i => decide (i < c.nPri)

/-- Every slave has one id, SEC and PRI among them, and is listed once with one kind. -/
def Cfg.slavesOk (c : Cfg) : Bool :=
  decide ((c.secId :: c.priId :: c.slaves.map Prod.fst).Nodup) &&
    c.slaves.all fun p => decide (p.2 ≠ .sec ∧ p.2 ≠ .pri)

/-- An interrupt output names a line of its controller that a device may drive (43_interrupt_fabric.md R174, R175). -/
def Cfg.irqOutOk (c : Cfg) : Bool :=
  c.irqOut.all fun p =>
    match p.2.ctrl with
    | .sec => decide (p.2.id < c.nSec)
    | .pri => decide (p.2.id < c.nPri) && decide (c.cascade ≠ some p.2.id)

/-- An offset of a generic bank with an override in one direction decodes in the other as well: it has an override there, or
it is a register of `REGS[s]`, or it is reserved, or the default handler is not `Fault`. With it `CANREAD` and `CANWRITE`
"agree at every address" on a bank whose registers are added, "for every kind this spec defines" (42_bus.md R159; log 21); a
read-only register without a cell has a write override that drops (41_register_bank.md R115). -/
def BankCfg.twoSided (b : BankCfg) : Bool :=
  (b.rdOvr ++ b.wrOvr).all fun o =>
    (decide (o ∈ b.rdOvr) && decide (o ∈ b.wrOvr)) || decide (o ∈ b.regs.map RegDecl.offset) ||
      decide (o.toNat ∈ b.reserved) || decide (b.dflt ≠ .fault)

/-- Every generic bank of the board is two-sided. -/
def Cfg.banksOk (c : Cfg) : Bool :=
  c.slaves.all fun p =>
    match p.2 with
    | .bank b => b.twoSided
    | .ram _ => true
    | .sec => true
    | .pri => true
    | .tmr => true
    | .other => true

/-- A configuration of 00_scope.md R5. -/
def Cfg.wf (c : Cfg) : Bool := c.lineCountsOk && c.cascadeOk && c.slavesOk && c.irqOutOk && c.banksOk

end Sys2Proof
end

