-- ==== Sys2Proof/Decode.lean ====
section
/-! DEFINITION. The request record `Q` (30_encoding.md R70 to R74, R78): field extraction, the decoder (total, rejecting a
reserved `cmd` by name) and the encoder. -/

namespace Sys2Proof

/-- Why a record or a byte string is not an operation: a `cmd` outside the map (30_encoding.md R78), or fewer bytes than
the 19 of a record (R71). -/
inductive DecodeError where
  | reservedCmd (cmd : Byte)
  | shortRecord (bytes : Nat)
  deriving DecidableEq, Repr

/-- `cmd = Q[7:0]` (R71). -/
def cmdField (q : Request) : Byte := q.extractLsb' 0 8

/-- `a = Q[23:8]` (R71). -/
def aField (q : Request) : Ident := q.extractLsb' 8 16

/-- `b = Q[87:24]` (R71). -/
def bField (q : Request) : DWord := q.extractLsb' 24 64

/-- `c = Q[151:88]` (R71). -/
def cField (q : Request) : DWord := q.extractLsb' 88 64

/-- The operation a record spells. `cmd` alone selects it (R70, R73, R74); the operands come from `a`, `b`, `c` as R72
assembles them, ignored fields dropped; a reserved `cmd` is rejected (R78). -/
def decodeRecord (q : Request) : Except DecodeError Instr :=
  let a := aField q
  let b := bField q
  let c := cField q
  match cmdField q with
  | 0x00#8 => .ok (.read8 a b)
  | 0x01#8 => .ok (.read16 a b)
  | 0x02#8 => .ok (.read32 a b)
  | 0x03#8 => .ok (.read64 a b)
  | 0x09#8 => .ok (.read16u a b)
  | 0x0A#8 => .ok (.read32u a b)
  | 0x0B#8 => .ok (.read64u a b)
  | 0x10#8 => .ok (.write8 a b (c.extractLsb' 0 8))
  | 0x11#8 => .ok (.write16 a b (c.extractLsb' 0 16))
  | 0x12#8 => .ok (.write32 a b (c.extractLsb' 0 32))
  | 0x13#8 => .ok (.write64 a b c)
  | 0x19#8 => .ok (.write16u a b (c.extractLsb' 0 16))
  | 0x1A#8 => .ok (.write32u a b (c.extractLsb' 0 32))
  | 0x1B#8 => .ok (.write64u a b c)
  | 0x40#8 => .ok (.canread a b 1)
  | 0x41#8 => .ok (.canread a b 2)
  | 0x42#8 => .ok (.canread a b 4)
  | 0x43#8 => .ok (.canread a b 8)
  | 0x50#8 => .ok (.canwrite a b 1)
  | 0x51#8 => .ok (.canwrite a b 2)
  | 0x52#8 => .ok (.canwrite a b 4)
  | 0x53#8 => .ok (.canwrite a b 8)
  | 0x60#8 => .ok .irqQ
  | 0x61#8 => .ok .fiqQ
  | 0x80#8 => .ok (.setLineSec a b (c.getLsbD 0))
  | 0x81#8 => .ok (.setLinePri a b (c.getLsbD 0))
  | 0x88#8 => .ok (.tick a)
  | 0xC0#8 => .ok (.addSlave a b c)
  | 0xC1#8 => .ok (.addRegister a (b.extractLsb' 0 32) (c.extractLsb' 0 32))
  | 0xC2#8 => .ok (.connectLineSec a b)
  | 0xC3#8 => .ok (.connectLinePri a b)
  | 0xC8#8 => .ok .startAll
  | 0xC9#8 => .ok .haltAll
  | cmd => .error (.reservedCmd cmd)

/-- The number the bytes spell, the first byte the least significant (R71: "the byte holding bits 7:0 comes first"). -/
def recordNat : List Byte → Nat
  | [] => 0
  | b :: bs => b.toNat + 256 * recordNat bs

/-- The operation the first 19 bytes spell, with the bytes that follow them (R71). -/
def decodeBytes (bytes : List Byte) : Except DecodeError (Instr × List Byte) :=
  if bytes.length < 19 then .error (.shortRecord bytes.length)
  else
    match decodeRecord (BitVec.ofNat 152 (recordNat (bytes.take 19))) with
    | .ok i => .ok (i, bytes.drop 19)
    | .error e => .error e

/-- A record from its fields (R71). -/
def mkRecord (cmd : Byte) (a : Ident) (b c : DWord) : Request := c ++ b ++ a ++ cmd

/-- `ss` of a probe: `len = 2^ss` (R72, R73). -/
def probeSize (len : Nat) : Byte :=
  if len = 2 then 1 else if len = 4 then 2 else if len = 8 then 3 else 0

/-- The operation code (R74). -/
def Instr.cmd : Instr → Byte
  | .read8 .. => 0x00
  | .read16 .. => 0x01
  | .read32 .. => 0x02
  | .read64 .. => 0x03
  | .read16u .. => 0x09
  | .read32u .. => 0x0A
  | .read64u .. => 0x0B
  | .write8 .. => 0x10
  | .write16 .. => 0x11
  | .write32 .. => 0x12
  | .write64 .. => 0x13
  | .write16u .. => 0x19
  | .write32u .. => 0x1A
  | .write64u .. => 0x1B
  | .canread _ _ len => 0x40 + probeSize len
  | .canwrite _ _ len => 0x50 + probeSize len
  | .irqQ => 0x60
  | .fiqQ => 0x61
  | .setLineSec .. => 0x80
  | .setLinePri .. => 0x81
  | .tick .. => 0x88
  | .addSlave .. => 0xC0
  | .addRegister .. => 0xC1
  | .connectLineSec .. => 0xC2
  | .connectLinePri .. => 0xC3
  | .startAll => 0xC8
  | .haltAll => 0xC9

/-- The identity operand `a` (R72), 0 where it is ignored. -/
def Instr.fieldA : Instr → Ident
  | .read8 m _ | .read16 m _ | .read32 m _ | .read64 m _ | .read16u m _ | .read32u m _ | .read64u m _ => m
  | .write8 m .. | .write16 m .. | .write32 m .. | .write64 m .. | .write16u m .. | .write32u m ..
  | .write64u m .. => m
  | .canread m .. | .canwrite m .. => m
  | .setLineSec d .. | .setLinePri d .. | .tick d | .connectLineSec d _ | .connectLinePri d _ => d
  | .addSlave s .. | .addRegister s .. => s
  | .irqQ | .fiqQ | .startAll | .haltAll => 0

/-- The first numeric operand `b` (R72), 0 where it is ignored. -/
def Instr.fieldB : Instr → DWord
  | .read8 _ x | .read16 _ x | .read32 _ x | .read64 _ x | .read16u _ x | .read32u _ x | .read64u _ x => x
  | .write8 _ x _ | .write16 _ x _ | .write32 _ x _ | .write64 _ x _ | .write16u _ x _ | .write32u _ x _
  | .write64u _ x _ => x
  | .canread _ x _ | .canwrite _ x _ => x
  | .setLineSec _ i _ | .setLinePri _ i _ | .connectLineSec _ i | .connectLinePri _ i => i
  | .addSlave _ l _ => l
  | .addRegister _ o _ => o.setWidth 64
  | .tick _ | .irqQ | .fiqQ | .startAll | .haltAll => 0

/-- The second numeric operand `c` (R72), 0 where it is ignored. -/
def Instr.fieldC : Instr → DWord
  | .write8 _ _ v => v.setWidth 64
  | .write16 _ _ v | .write16u _ _ v => v.setWidth 64
  | .write32 _ _ v | .write32u _ _ v => v.setWidth 64
  | .write64 _ _ v | .write64u _ _ v => v
  | .setLineSec _ _ v | .setLinePri _ _ v => (BitVec.ofBool v).setWidth 64
  | .addSlave _ _ h => h
  | .addRegister _ _ r => r.setWidth 64
  | .read8 .. | .read16 .. | .read32 .. | .read64 .. | .read16u .. | .read32u .. | .read64u .. => 0
  | .canread .. | .canwrite .. | .irqQ | .fiqQ | .tick _ | .connectLineSec .. | .connectLinePri .. => 0
  | .startAll | .haltAll => 0

/-- The record of an operation, every ignored bit 0 (R71, R72, R74). -/
def encode (i : Instr) : Request := mkRecord i.cmd i.fieldA i.fieldB i.fieldC

/-- The 19 bytes of a record, the byte holding bits 7:0 first (R71). -/
def recordBytes (q : Request) : List Byte := (List.range 19).map fun k => q.extractLsb' (8 * k) 8

/-- The record whose low `nbits` bits are those of `w` and whose other bits are 0. -/
def recordOfTableWord (nbits w : Nat) : Request := BitVec.ofNat 152 (w % 2 ^ nbits)

/-- The operation the decoder reads from a row of spec/opcode_table.json given `nbits` bits `w`; every other bit of the
record is 0. -/
def decodeTableWord (nbits w : Nat) : Option Instr :=
  match decodeBytes (recordBytes (recordOfTableWord nbits w)) with
  | .ok (i, _) => some i
  | .error _ => none

end Sys2Proof
end

