-- ==== Sys2Proof/Machine/Assoc.lean ====
section
/-! DEFINITION. Finite maps as lists of key and value pairs in one canonical form, keys strictly rising: RAM bytes, register
cells, line drivers, run states. Equal maps are equal lists. -/

namespace Sys2Proof.Machine

/-- The value at a key, if the map lists it. -/
def mapGet {α : Type} : List (Nat × α) → Nat → Option α
  | [], _ => none
  | (k', v) :: rest, k => if k' = k then some v else mapGet rest k

/-- The map with the value at one key set; the canonical form is kept. -/
def mapSet {α : Type} : List (Nat × α) → Nat → α → List (Nat × α)
  | [], k, v => [(k, v)]
  | (k', v') :: rest, k, v =>
    if k < k' then (k, v) :: (k', v') :: rest
    else if k = k' then (k, v) :: rest
    else (k', v') :: mapSet rest k v

/-- The keys rise strictly. -/
def mapWf {α : Type} : List (Nat × α) → Bool
  | [] => true
  | [_] => true
  | (k, _) :: (k', v') :: rest => decide (k < k') && mapWf ((k', v') :: rest)

/-- The bytes of every RAM slave (10_state.md R15), as `Host.Cell`s whose address is `ramKey`. A byte is listed exactly when
a write has reached it since reset; an unlisted byte has no value of its own and reads as `Config.ramResetByte` (log 4). -/
abbrev Memory := List Host.Cell

/-- The canonical form of a memory. -/
def Memory.wf (m : Memory) : Bool := mapWf m

/-- The address of byte `off` of RAM slave `s`: the RAMs stand side by side, 2^64 addresses each. -/
def ramKey (s : Ident) (off : Nat) : Nat := s.toNat * 2 ^ 64 + off

/-- Set the bytes from an address up, lowest address first (40_slave_core.md R101). -/
def memWrite (m : Memory) (at_ : Nat) : List Byte → Memory
  | [] => m
  | b :: bs => memWrite (mapSet m at_ b) (at_ + 1) bs

/-- The key of the cell of bank `s` at a 32-bit offset (10_state.md R11). -/
def cellKey (s : Ident) (off : Nat) : Nat := s.toNat * 2 ^ 32 + off

end Sys2Proof.Machine
end

