-- ==== Sys2Proof/Machine/Board.lean ====
section
/-! DEFINITION. What a configuration says of a slave or a device, the fixed register maps of SEC, PRI and TMR
(10_state.md R21 to R23; 41_register_bank.md R110 to R118), the cells that exist at reset, and the boards `BOARD_T` and
`BOARD_G`. -/

namespace Sys2Proof.Machine

/-- The first entry of an id in a table keyed by id. -/
def idLookup {α : Type} : List (Ident × α) → Ident → Option α
  | [], _ => none
  | (k, v) :: rest, i => if k = i then some v else idLookup rest i

/-- The kind of a slave, or none if the id is not in `Cfg.SLAVES` (00_scope.md R5). -/
def kindOf (c : Cfg) (s : Ident) : Option SlaveKind :=
  if s = c.secId then some .sec
  else if s = c.priId then some .pri
  else idLookup c.slaves s

/-- `TICK[d]` is defined: TMR has the tick of 44_device_threads.md R206; RAM, SEC and PRI never tick (R200); any other
device ticks if the board lists it. -/
def autonomous (c : Cfg) (d : Ident) : Bool :=
  match kindOf c d with
  | some .tmr => true
  | some (.ram _) => false
  | some .sec => false
  | some .pri => false
  | _ => c.tickers.contains d

/-- Every autonomous device of a board, in the order the board lists them. -/
def autonomousIds (c : Cfg) : List Ident := (c.slaves.map Prod.fst ++ c.tickers).filter (autonomous c)

/-- `IRQ_OUT[d]` (00_scope.md R5). -/
def irqOutOf (c : Cfg) (d : Ident) : Option LineRef := idLookup c.irqOut d

/-- `DEV_ERROR[d]` of a device in view `view`, constantly false unless the board says otherwise
(44_device_threads.md R203). -/
def devErrorHolds (c : Cfg) (d : Ident) (view : DevView) : Bool :=
  match idLookup c.devErrors d with
  | none => false
  | some .never => false
  | some .always => true
  | some .unspecified => Config.devError d view

/-- `N_c` (00_scope.md R5). -/
def lineCount (c : Cfg) : Ctrl → Nat
  | .sec => c.nSec
  | .pri => c.nPri

/-- Line `id` is the cascade line of controller `ctl` (10_state.md R18); the secondary has none. -/
def isCascade (c : Cfg) : Ctrl → Nat → Bool
  | .sec, _ => false
  | .pri, id => decide (c.cascade = some id)

/-- `RD_OVR[s]`: the offsets with a read override (41_register_bank.md R113). -/
def readOverrides : SlaveKind → List Nat
  | .sec => [0x00, 0x08]
  | .pri => [0x00, 0x08, 0x0C, 0x10]
  | .tmr => [0x14]
  | .bank b => b.rdOvr.map BitVec.toNat
  | .ram _ => []
  | .other => []

/-- `WR_OVR[s]`: the offsets with a write override (41_register_bank.md R115). -/
def writeOverrides : SlaveKind → List Nat
  | .sec => [0x00, 0x04, 0x08]
  | .pri => [0x00, 0x04, 0x08, 0x0C, 0x10]
  | .tmr => [0x0C]
  | .bank b => b.wrOvr.map BitVec.toNat
  | .ram _ => []
  | .other => []

/-- `RESERVED[s]` (41_register_bank.md R117). -/
def reservedOffsets : SlaveKind → List Nat
  | .sec => [0x0C]
  | .pri => [0x14, 0x18, 0x1C]
  | .tmr => [0x10]
  | .bank b => b.reserved
  | .ram _ => []
  | .other => []

/-- `WL64[s]`, `none` where it is unrestricted (41_register_bank.md R116; 92_eei_decisions.md D14). -/
def whitelist64 : SlaveKind → Option (List Nat)
  | .sec => some []
  | .pri => some []
  | .tmr => some [0x00]
  | .bank b => b.wl64
  | .ram _ => some []
  | .other => some []

/-- `DEFAULT[s]`: "SEC, PRI and TMR use `Fault`" (41_register_bank.md R118). -/
def defaultHandler : SlaveKind → DefaultHandler
  | .bank b => b.dflt
  | .sec => .fault
  | .pri => .fault
  | .tmr => .fault
  | .ram _ => .fault
  | .other => .fault

/-- `SUBWORD[s]` (41_register_bank.md R119). -/
def subwordOf : SlaveKind → Subword
  | .bank b => b.subword
  | .sec => .unsupported
  | .pri => .unsupported
  | .tmr => .unsupported
  | .ram _ => .unsupported
  | .other => .unsupported

/-- A new cell: `current_value = reset_value` (41_register_bank.md R110). -/
def newCell (name : String) (resetValue : Word) : RegCell := ⟨name, resetValue, resetValue⟩

/-- The cells a slave has at reset: "the banks of the kinds `SEC`, `PRI` and `TMR` are complete at reset"
(41_register_bank.md R110); reset values from 10_state.md R21 to R23, R26. -/
def resetCells : SlaveKind → List (Nat × RegCell)
  | .sec => [(0x04, newCell "SEC_ENABLE" 0)]
  | .pri => [(0x04, newCell "PRI_ENABLE" 0)]
  | .tmr =>
    [(0x00, newCell "TMR_CNT_LO" 0), (0x04, newCell "TMR_CNT_HI" 0), (0x08, newCell "TMR_CMP_LO" 0xFFFFFFFF),
      (0x0C, newCell "TMR_STAT" 0), (0x14, newCell "TMR_FLAG" 0)]
  | .bank _ => []
  | .ram _ => []
  | .other => []

/-- Enter a slave's reset cells into the map of all cells. -/
def enterCells (s : Ident) : List (Nat × RegCell) → List (Nat × RegCell) → List (Nat × RegCell)
  | [], bank => bank
  | (off, cell) :: rest, bank => enterCells s rest (mapSet bank (cellKey s off) cell)

/-- Enter the reset cells of every listed slave. -/
def enterSlaves : List (Ident × SlaveKind) → List (Nat × RegCell) → List (Nat × RegCell)
  | [], bank => bank
  | (s, k) :: rest, bank => enterSlaves rest (enterCells s (resetCells k) bank)

/-- Every cell that exists at reset. -/
def resetBank (c : Cfg) : List (Nat × RegCell) :=
  enterSlaves ((c.secId, .sec) :: (c.priId, .pri) :: c.slaves) []

/-- The wires that exist at reset: `pri.conn[CASCADE_LINE] = SEC_AGGR` and no other (10_state.md R18, R26). -/
def resetPriConn (c : Cfg) : List (Nat × LineDriver) :=
  match c.cascade with
  | none => []
  | some i => [(i, .secAggr)]

/-- Every autonomous device is Idle (10_state.md R26). -/
def resetRun (c : Cfg) : List (Nat × RunState) :=
  (autonomousIds c).foldl (fun m d => mapSet m d.toNat .idle) []

/-- `BOARD_T`, the test board and the default of every parameter (45_board_assembly.md R225; 92_eei_decisions.md D30). -/
def boardT : Cfg where
  secId := 2
  priId := 3
  nSec := 32
  nPri := 32
  cascade := some 31
  fiqsel := 0x00000020
  slaves := [(1, .ram 0x10000), (4, .tmr), (5, .tmr)]
  irqOut := [(4, ⟨.pri, 4⟩), (5, ⟨.sec, 3⟩)]
  memoryMap :=
    [⟨"RAM", 0x00000000, 0x00010000, 1⟩, ⟨"SEC", 0x10000000, 0x10000010, 2⟩, ⟨"PRI", 0x10001000, 0x10001020, 3⟩,
      ⟨"TMR", 0x10002000, 0x10002020, 4⟩, ⟨"TMR2", 0x10003000, 0x10003020, 5⟩]
  wires := [⟨.pri, 4, 4⟩, ⟨.pri, 9, 5⟩, ⟨.sec, 5, 3⟩]

/-- `BOARD_G`, the board with a generic bank (95_test_vectors.md section 2.5; 96_programs.md program P4). -/
def boardG : Cfg where
  secId := 2
  priId := 3
  nSec := 32
  nPri := 32
  cascade := some 31
  fiqsel := 0
  slaves := [(1, .ram 0x1000), (7, .bank { reserved := [0x20] })]

end Sys2Proof.Machine
end

