-- ==== Sys2Proof/Machine/State.lean ====
section
/-! DEFINITION. The state of the fabric (10_state.md R10) as plain data, the response record, and the state after reset
(10_state.md R26). -/

namespace Sys2Proof.Machine

/-- What a successful operation returns, typed at its width (30_encoding.md R75, R77): nothing, a value read, or the bit
of a probe or query. -/
inductive Data where
  | none
  | byte (v : Byte)
  | half (v : BitVec 16)
  | word (v : Word)
  | dword (v : DWord)
  | flag (b : Bool)
  deriving DecidableEq, Repr

/-- The kinds of bus fault (60_exceptions.md R230, R231). -/
inductive BusFaultKind where
  | unmapped
  | unsupportedAccess
  deriving DecidableEq, Repr

/-- The kinds of configuration error with their descriptions (60_exceptions.md R233). `overlap` gives every bound range the
new one overlaps, so that no choice is made of which one is named (93_implementation_defined.md U26, log 11). The
constructors from `badRange` on are the causes of `CFGERR_OTHER`. -/
inductive ConfigErrorKind where
  | overlap (low high : DWord) (bound : List Range)
  | dupLine (ctrl : Ctrl) (id : Nat) (bound : Option LineDriver) (dev : Ident)
  | badRange (low high : DWord)
  | unknownSlave (slave : Ident)
  | notBank (slave : Ident)
  | misalignedOffset (slave : Ident) (offset : Word)
  | duplicateOffset (slave : Ident) (offset : Word)
  | lineOutOfRange (ctrl : Ctrl) (id : DWord)
  deriving DecidableEq, Repr

/-- The reasons of a refusal: `REFUSED_PHASE`, `REFUSED_ENCODING`, `REFUSED_LINE`, `REFUSED_DEVICE` (30_encoding.md R76;
60_exceptions.md R234). -/
inductive RefuseReason where
  | phase
  | encoding
  | line
  | device
  deriving DecidableEq, Repr

/-- The outcome of one operation (30_encoding.md R75, R76). A failed operation carries no data (R75); a bus fault carries
the operands of the failed request (60_exceptions.md R231). -/
inductive Response where
  | ok (data : Data)
  | busFault (kind : BusFaultKind) (addr : DWord) (len : Nat) (dir : Dir) (master : Ident)
  | configError (kind : ConfigErrorKind)
  | refused (why : RefuseReason)
  deriving DecidableEq, Repr

/-- The whole state: the record of 10_state.md R10, then the model's own fields. `cfg` is the board (R25; log 2),
`devState` the other state of devices whose functions are open (R103, R201; log 5), `pending` the presented requests, next
first (log 1), `response` the record `P` of the last operation (R75), `sawRefusal` whether the run so far contains a
refusal (R234; log 3). -/
structure State where
  phase : Phase
  ranges : List Range
  bank : List (Nat × RegCell)
  ram : Memory
  sec : Controller
  pri : Controller
  run : List (Nat × RunState)
  shouldHalt : Bool
  cfg : Cfg
  devState : List (Nat × List DWord)
  pending : List Request
  response : Option Response
  sawRefusal : Bool
  deriving DecidableEq, Repr

/-- The reasons a step could stop with a fault: there are none. Every fault of the taxonomy (60_exceptions.md R230) is the
status of a response, after which the fabric serves the next operation (R236, R243; log 3). Safe: no behaviour is cut. -/
inductive Fault where
  deriving DecidableEq, Repr

/-- The reasons a step could be refused by the model. -/
inductive Refusal where
  /-- Raised by an arm of `exec` for an operation without a meaning; no arm raises it. Safe: it claims nothing. -/
  | notModelled (mnemonic : String)
  deriving DecidableEq, Repr

/-- The fabric of board `c` right after its construction (10_state.md R26; 70_reset_and_hazards.md R260). -/
def State.resetOf (c : Cfg) : State where
  phase := .config
  ranges := []
  bank := resetBank c
  ram := []
  sec := ⟨0, []⟩
  pri := ⟨0, resetPriConn c⟩
  run := resetRun c
  shouldHalt := false
  cfg := c
  devState := []
  pending := []
  response := none
  sawRefusal := false

/-- The machine right after reset, on the default board `BOARD_T` (log 2). -/
def State.reset : State := State.resetOf boardT

/-- The state with another phase. -/
def State.setPhase (s : State) (v : Phase) : State := { s with phase := v }

/-- The state with another range table. -/
def State.setRanges (s : State) (v : List Range) : State := { s with ranges := v }

/-- The state with another map of cells. -/
def State.setBank (s : State) (v : List (Nat × RegCell)) : State := { s with bank := v }

/-- The state with other RAM contents. -/
def State.setRam (s : State) (v : Memory) : State := { s with ram := v }

/-- The state with another secondary controller. -/
def State.setSec (s : State) (v : Controller) : State := { s with sec := v }

/-- The state with another primary controller. -/
def State.setPri (s : State) (v : Controller) : State := { s with pri := v }

/-- The state with other run states. -/
def State.setRun (s : State) (v : List (Nat × RunState)) : State := { s with run := v }

/-- The state with another halt flag. -/
def State.setShouldHalt (s : State) (v : Bool) : State := { s with shouldHalt := v }

/-- The state with other open-device state. -/
def State.setDevState (s : State) (v : List (Nat × List DWord)) : State := { s with devState := v }

/-- The state with other presented requests. -/
def State.setPending (s : State) (v : List Request) : State := { s with pending := v }

/-- The state with a response. -/
def State.setResponse (s : State) (v : Option Response) : State := { s with response := v }

/-- The state with another refusal mark. -/
def State.setSawRefusal (s : State) (v : Bool) : State := { s with sawRefusal := v }

end Sys2Proof.Machine
end

