-- ==== Sys2Proof/Machine/Operands.lean ====
section
/-! DEFINITION. Byte order, widths and alignment: the operand forms of a data access (00_scope.md R6; 20_memory.md R44, R46,
R47, R58; 30_encoding.md R77). Local offsets and lengths are natural numbers, so that no sum of them wraps (R49, R58). -/

namespace Sys2Proof.Machine

/-- Byte `i` of a value, `v[8*i+7:8*i]` (00_scope.md R6). -/
def byteOf (v : DWord) (i : Nat) : Byte := v.extractLsb' (8 * i) 8

/-- `bytes_le(v, len)` (00_scope.md R6; 20_memory.md R44). -/
def bytesLe (v : DWord) (len : Nat) : List Byte := (List.range len).map (byteOf v)

/-- The number whose little-endian bytes are these. -/
def leNat : List Byte → Nat
  | [] => 0
  | b :: bs => b.toNat + 256 * leNat bs

/-- `from_le`, zero-extended to 64 bits (00_scope.md R6; 30_encoding.md R77). -/
def fromLe (bs : List Byte) : DWord := BitVec.ofNat 64 (leNat bs)

/-- The low `8*len` bits of a value, the rest 0 (30_encoding.md R77). -/
def laneMask (v : DWord) (len : Nat) : DWord := BitVec.ofNat 64 (v.toNat % 2 ^ (8 * len))

/-- `off mod len = 0` (20_memory.md R47). -/
def isAligned (off len : Nat) : Bool := decide (off % len = 0)

/-- `len` bytes at `off` end inside a window of `size` bytes: `off + len <= size` (20_memory.md R49, R58). -/
def endsInside (off len size : Nat) : Bool := decide (off + len ≤ size)

/-- `{hi, lo}` of two words (00_scope.md R6; 41_register_bank.md R116). -/
def joinWords (hi lo : Word) : DWord := hi ++ lo

/-- `v[31:0]`. -/
def lowWord (v : DWord) : Word := v.extractLsb' 0 32

/-- `v[63:32]`. -/
def highWord (v : DWord) : Word := v.extractLsb' 32 32

/-- A line vector with one bit set or cleared. -/
def setBit (v : Word) (i : Nat) (b : Bool) : Word :=
  if b then v ||| (1#32 <<< i) else v &&& ~~~(1#32 <<< i)

/-- `LM(n) = 2^n - 1` at 32 bits (10_state.md R20). -/
def lineMask (n : Nat) : Word := BitVec.ofNat 32 (2 ^ n - 1)

end Sys2Proof.Machine
end

