-- ==== Sys2Proof/Machine/Flags.lean ====
section
/-! DEFINITION. The flags of the fabric: the derived interrupt signals (10_state.md R20), the views of the controller
registers (R21, R22), the line states (R17) and the auxiliary winner outputs (43_interrupt_fabric.md R184). They are
functions of the state and hold no storage (R20, R183). -/

namespace Sys2Proof.Machine

/-- One of the two controllers. -/
def controller (s : State) : Ctrl → Controller
  | .sec => s.sec
  | .pri => s.pri

/-- The id of the slave a controller is. -/
def controllerId (c : Cfg) : Ctrl → Ident
  | .sec => c.secId
  | .pri => c.priId

/-- `c.conn[id]` (10_state.md R18). -/
def lineDriver (s : State) (ctl : Ctrl) (id : Nat) : Option LineDriver := mapGet (controller s ctl).conn id

/-- `cell[s][off].current_value`; 0 where the bank has no such cell, which no reached state shows (log 15). -/
def cellValue (s : State) (sl : Ident) (off : Nat) : Word :=
  match mapGet s.bank (cellKey sl off) with
  | some cell => cell.currentValue
  | none => 0

/-- `c.enable`, which is `cell[c][0x04].current_value` (10_state.md R10, R21, R22). -/
def enableOf (s : State) (ctl : Ctrl) : Word := cellValue s (controllerId s.cfg ctl) 0x04

/-- The `N_c` bits of `c.raw`, zero-extended (10_state.md R16, R21). -/
def rawOf (s : State) (ctl : Ctrl) : Word := (controller s ctl).raw &&& lineMask (lineCount s.cfg ctl)

/-- `sec.raw & sec.enable` (10_state.md R21). -/
def secMasked (s : State) : Word := rawOf s .sec &&& enableOf s .sec

/-- `sec_aggr`, the secondary's aggregate line (10_state.md R20; 43_interrupt_fabric.md R176). -/
def secAggr (s : State) : Bool := decide (secMasked s ≠ 0)

/-- `pri_raw_eff`: the primary's raw vector with the cascade bit replaced by `sec_aggr` (10_state.md R20;
43_interrupt_fabric.md R177). -/
def priRawEff (s : State) : Word :=
  match s.cfg.cascade with
  | none => rawOf s .pri
  | some i => setBit (rawOf s .pri) i (secAggr s) &&& lineMask s.cfg.nPri

/-- `pri_masked` (10_state.md R20). -/
def priMasked (s : State) : Word := priRawEff s &&& enableOf s .pri

/-- `zext_32(FIQSEL)`, an `N_PRI`-bit constant (10_state.md R19, R22). -/
def fiqselView (c : Cfg) : Word := c.fiqsel &&& lineMask c.nPri

/-- `irq` (10_state.md R20). -/
def irq (s : State) : Bool := decide (priMasked s &&& ~~~(fiqselView s.cfg) ≠ 0)

/-- `fiq` (10_state.md R20). -/
def fiq (s : State) : Bool := decide (priMasked s &&& fiqselView s.cfg ≠ 0)

/-- `{30'b0, fiq, irq}`, the register `PRI_OUT` (10_state.md R22). -/
def priOut (s : State) : Word := (0#30 ++ BitVec.ofBool (fiq s)) ++ BitVec.ofBool (irq s)

/-- The raw bit of a line as its controller sees it, the cascade line live (10_state.md R16, R20). -/
def lineRaw (s : State) (ctl : Ctrl) (id : Nat) : Bool :=
  match ctl with
  | .sec => (rawOf s .sec).getLsbD id
  | .pri => (priRawEff s).getLsbD id

/-- The three names of a line's state (10_state.md R17). -/
inductive LineState where
  | disabled
  | enabledClear
  | enabledAsserted
  deriving DecidableEq, Repr

/-- The projection of a line's two bits onto its state (10_state.md R17). -/
def lineState (s : State) (ctl : Ctrl) (id : Nat) : LineState :=
  match (enableOf s ctl).getLsbD id, lineRaw s ctl id with
  | false, _ => .disabled
  | true, false => .enabledClear
  | true, true => .enabledAsserted

/-- `irq_set`, rising (43_interrupt_fabric.md R184). -/
def irqSet (s : State) : List Nat :=
  (List.range s.cfg.nPri).filter fun i => (priMasked s).getLsbD i && !(fiqselView s.cfg).getLsbD i

/-- `fiq_set`, rising (43_interrupt_fabric.md R184). -/
def fiqSet (s : State) : List Nat :=
  (List.range s.cfg.nPri).filter fun i => (priMasked s).getLsbD i && (fiqselView s.cfg).getLsbD i

/-- `PRIO_POLICY(S)`: a member of `S`, the smallest by default; an open policy's answer counts only if it is a member
(43_interrupt_fabric.md R184; log 8). -/
def prioChoice (p : PrioPolicy) (set : List Nat) : Option Nat :=
  match p with
  | .smallest => set.head?
  | .unspecified => if Config.prioPolicy set ∈ set then some (Config.prioPolicy set) else set.head?

/-- `irq_id`, auxiliary and not readable over the bus (43_interrupt_fabric.md R184). -/
def irqId (s : State) : Option Nat := prioChoice s.cfg.prio (irqSet s)

/-- `fiq_id`, auxiliary and not readable over the bus (43_interrupt_fabric.md R184). -/
def fiqId (s : State) : Option Nat := prioChoice s.cfg.prio (fiqSet s)

end Sys2Proof.Machine
end

