-- ==== Sys2Proof/Machine/Ops.lean ====
section
/-! DEFINITION. The named operations over the state: responding, faulting, refusing (60_exceptions.md R231, R233, R234),
register cells, interrupt lines, and the effect of a device's own function. The fabric enters no handler and has no
return operation (R243, R244): raising a fault is `raiseBusFault` or `raiseConfigError`, and nothing is restored. -/

namespace Sys2Proof.Machine

/-- The operation ends with status OK and these data (30_encoding.md R75). -/
def respond (d : Data) (s : State) : State := s.setResponse (some (.ok d))

/-- `raise BusFault(kind)(addr, len, dir, m)`: the response is the fault and no other state changes (60_exceptions.md R231,
R236). -/
def raiseBusFault (kind : BusFaultKind) (addr : DWord) (len : Nat) (dir : Dir) (m : Ident) (s : State) : State :=
  s.setResponse (some (.busFault kind addr len dir m))

/-- `raise ConfigError(kind)(info)`: "the failing operation changes nothing except `phase <- FAILED`" (60_exceptions.md
R233). -/
def raiseConfigError (kind : ConfigErrorKind) (s : State) : State :=
  (s.setPhase .failed).setResponse (some (.configError kind))

/-- `refuse(reason)`: "no state changes, `phase` included" (60_exceptions.md R234). The mark records that the run now
contains a refusal, so that a claim about it can be withheld (log 3). -/
def refuse (why : RefuseReason) (s : State) : State :=
  (s.setResponse (some (.refused why))).setSawRefusal true

/-- The machine goes on after the response (60_exceptions.md R236; log 3). -/
def proceed (s : State) : Host.Outcome State Fault Refusal := .next s

/-- The status byte of a response (30_encoding.md R76). -/
def statusCode : Response → Byte
  | .ok _ => 0x00
  | .busFault .unmapped .. => 0x01
  | .busFault .unsupportedAccess .. => 0x02
  | .configError (.overlap ..) => 0x10
  | .configError (.dupLine ..) => 0x11
  | .configError (.badRange ..) => 0x12
  | .configError (.unknownSlave _) => 0x12
  | .configError (.notBank _) => 0x12
  | .configError (.misalignedOffset ..) => 0x12
  | .configError (.duplicateOffset ..) => 0x12
  | .configError (.lineOutOfRange ..) => 0x12
  | .refused .phase => 0x20
  | .refused .encoding => 0x21
  | .refused .line => 0x22
  | .refused .device => 0x23

/-- `rdata` of a response: the value zero-extended, zero where the operation returns none or fails (30_encoding.md R75,
R77). -/
def responseData : Response → DWord
  | .ok (.byte v) => v.setWidth 64
  | .ok (.half v) => v.setWidth 64
  | .ok (.word v) => v.setWidth 64
  | .ok (.dword v) => v
  | .ok (.flag b) => (BitVec.ofBool b).setWidth 64
  | .ok .none => 0
  | .busFault .. => 0
  | .configError _ => 0
  | .refused _ => 0

/-- The response record `P` (30_encoding.md R71, R75). -/
def responseRecord (r : Response) : ResponseRecord := responseData r ++ statusCode r

/-- The 9 bytes of a response record, the status first (30_encoding.md R71). -/
def responseBytes (r : Response) : List Byte := (List.range 9).map fun k => (responseRecord r).extractLsb' (8 * k) 8

/-- The bank of slave `sl` has a cell at `off`; an offset at or above 2^32 equals no key (20_memory.md R41). -/
def hasCell (s : State) (sl : Ident) (off : Nat) : Bool :=
  decide (off < 2 ^ 32) && (mapGet s.bank (cellKey sl off)).isSome

/-- `cell[sl][off].current_value <- v`; the name and the reset value never change (41_register_bank.md R114), and a bank
gains no cell this way. -/
def setCell (sl : Ident) (off : Nat) (v : Word) (s : State) : State :=
  match mapGet s.bank (cellKey sl off) with
  | some cell => s.setBank (mapSet s.bank (cellKey sl off) { cell with currentValue := v })
  | none => s

/-- The byte a RAM holds: the byte written last, or the unspecified reset byte (40_slave_core.md R100; 10_state.md R26). -/
def ramByte (s : State) (sl : Ident) (off : Nat) : Byte :=
  match mapGet s.ram (ramKey sl off) with
  | some b => b
  | none => Config.ramResetByte sl off

/-- The bytes `ram[sl][off .. off+len-1]`, lowest first (40_slave_core.md R100). -/
def ramBytes (s : State) (sl : Ident) (off len : Nat) : List Byte :=
  (List.range len).map fun i => ramByte s sl (off + i)

/-- Write bytes into a RAM from a local offset up (40_slave_core.md R101). -/
def ramWrite (sl : Ident) (off : Nat) (bs : List Byte) (s : State) : State :=
  s.setRam (memWrite s.ram (ramKey sl off) bs)

/-- `c.raw[id] <- b`, nothing else (43_interrupt_fabric.md R174, R175). -/
def setRaw (ctl : Ctrl) (id : Nat) (b : Bool) (s : State) : State :=
  match ctl with
  | .sec => s.setSec { s.sec with raw := setBit s.sec.raw id b }
  | .pri => s.setPri { s.pri with raw := setBit s.pri.raw id b }

/-- Device `d` drives line `id` of a controller: the line exists, is not the cascade line, and is connected to `d`
(43_interrupt_fabric.md R172 to R175). -/
def drives (s : State) (d : Ident) (ctl : Ctrl) (id : Nat) : Bool :=
  decide (id < lineCount s.cfg ctl) && !isCascade s.cfg ctl id && decide (lineDriver s ctl id = some (.dev d))

/-- A `set_line` call that device `d` makes from a tick or an override: no effect on a line it does not drive
(43_interrupt_fabric.md R174, R175; 92_eei_decisions.md D21). -/
def deviceSetLine (d : Ident) (ctl : Ctrl) (id : Nat) (b : Bool) (s : State) : State :=
  if drives s d ctl id then setRaw ctl id b s else s

/-- `set_line(IRQ_OUT[d], b)`; nothing where the device has no output (00_scope.md R5). -/
def driveOutput (d : Ident) (b : Bool) (s : State) : State :=
  match irqOutOf s.cfg d with
  | some l => deviceSetLine d l.ctrl l.id b s
  | none => s

/-- Bind line `id` of a controller to a device (43_interrupt_fabric.md R170, R171). -/
def bindLine (ctl : Ctrl) (id : Nat) (d : Ident) (s : State) : State :=
  match ctl with
  | .sec => s.setSec { s.sec with conn := mapSet s.sec.conn id (.dev d) }
  | .pri => s.setPri { s.pri with conn := mapSet s.pri.conn id (.dev d) }

/-- `run[d]`, Idle where the map lists nothing (10_state.md R24, R26). -/
def runState (s : State) (d : Ident) : RunState :=
  match mapGet s.run d.toNat with
  | some r => r
  | none => .idle

/-- `run[d] <- r`. -/
def setRunState (d : Ident) (r : RunState) (s : State) : State := s.setRun (mapSet s.run d.toNat r)

/-- The other state of a device whose functions are open (log 5). -/
def devOther (s : State) (d : Ident) : List DWord :=
  match mapGet s.devState d.toNat with
  | some l => l
  | none => []

/-- What an override or a tick of device `d` may read: its own cells, reset values included, and its other state
(41_register_bank.md R113, R115; 44_device_threads.md R201). -/
def devView (s : State) (d : Ident) : DevView where
  cells := s.bank.filterMap fun p =>
    if p.1 / 2 ^ 32 = d.toNat then some (p.1 % 2 ^ 32, ⟨p.2.resetValue, p.2.currentValue⟩) else none
  other := devOther s d

/-- The state as the functions of an `Other` slave `d` and the `Fn` default handler of a bank `d` take it
(40_slave_core.md R94, R95, R103; 41_register_bank.md R118): the record of 10_state.md R10 and `d`'s other state. -/
def stateView (s : State) (d : Ident) : StateView where
  phase := s.phase
  ranges := s.ranges
  bank := s.bank
  ram := s.ram
  sec := s.sec
  pri := s.pri
  run := s.run
  shouldHalt := s.shouldHalt
  other := devOther s d

/-- Write a list of a device's own cells, in order. -/
def writeCells (d : Ident) : List (Word × Word) → State → State
  | [], s => s
  | (off, v) :: rest, s => writeCells d rest (setCell d off.toNat v s)

/-- Make a list of `set_line` calls in a device's name, in order. DESIGN CHOICE (log 20): 00_scope.md R5 says that a
device's internal `set_line` calls name the one pair `IRQ_OUT[d]` (and 43_interrupt_fabric.md R174, R175 say it of ticks and
overrides); 41_register_bank.md R113, 40_slave_core.md R103 and 44_device_threads.md R200, R201 allow any line connected to
the device. An open function may name any line the device drives; `IRQ_OUT` is read for TMR only (`driveOutput`). -/
def callLines (d : Ident) : List (Ctrl × Nat × Bool) → State → State
  | [], s => s
  | (ctl, id, b) :: rest, s => callLines d rest (deviceSetLine d ctl id b s)

/-- The effect of an open function of device `d`: its own cells, its own other state, and the lines it drives; nothing
else (41_register_bank.md R113; 44_device_threads.md R201; 40_slave_core.md R103; 10_state.md R27). DESIGN CHOICE (log 22): a
read has such an effect too, a `set_line` that clears a line among them (20_memory.md R52, 40_slave_core.md R94,
41_register_bank.md R113), although 43_interrupt_fabric.md R179 says "A read never clears anything" (so 10_state.md R16,
60_exceptions.md R238) and 10_state.md R27 names no read among the writers of cells and of `raw`. -/
def applyEffect (d : Ident) (e : DevEffect) (s : State) : State :=
  let s1 := writeCells d e.cellWrites s
  callLines d e.lines (s1.setDevState (mapSet s1.devState d.toNat e.other))

/-- The next presented request and the state that has taken it (60_exceptions.md R250; log 1). -/
def takeRequest (s : State) : Option (Request × State) :=
  match s.pending with
  | [] => none
  | q :: rest => some (q, s.setPending rest)

/-- The state with one more request, presented before all others. -/
def presentRequest (q : Request) (s : State) : State := s.setPending (q :: s.pending)

end Sys2Proof.Machine
end

