-- ==== Sys2Proof/Machine/Bank.lean ====
section
/-! DEFINITION. The Register Bank (41_register_bank.md): what an offset selects, word and 64-bit access, overrides, reserved
offsets and the default handler. `k` is the kind of slave `sl`. -/

namespace Sys2Proof.Machine

/-- The classes of R111. -/
inductive BankClass where
  | override
  | cell
  | reserved
  | dflt
  | undecoded
  deriving DecidableEq, Repr

/-- The offsets with an override in a direction. -/
def overridesOf (k : SlaveKind) : Dir → List Nat
  | .read => readOverrides k
  | .write => writeOverrides k

/-- `bank_class(s, off, dir)` (R111): the first class that applies. -/
def bankClass (s : State) (sl : Ident) (k : SlaveKind) (off : Nat) (dir : Dir) : BankClass :=
  if off < 2 ^ 32 ∧ off ∈ overridesOf k dir then .override
  else if hasCell s sl off then .cell
  else if off ∈ reservedOffsets k then .reserved
  else if defaultHandler k ≠ .fault then .dflt
  else .undecoded

/-- `bank_decodes` (R111). -/
def bankDecodes (s : State) (sl : Ident) (k : SlaveKind) (off : Nat) (dir : Dir) : Bool :=
  decide (bankClass s sl k off dir ≠ .undecoded)

/-- `bank_supports64` (R116). -/
def bankSupports64 (s : State) (sl : Ident) (k : SlaveKind) (off : Nat) (dir : Dir) : Bool :=
  (match whitelist64 k with
    | none => true
    | some wl => decide (off ∈ wl)) &&
    bankDecodes s sl k off dir && bankDecodes s sl k (off + 4) dir

/-- `RD_OVR[s][off]` (R113). DESIGN CHOICE (log 22): a generic bank's may clear a line it drives. -/
def readOverride (sl : Ident) (k : SlaveKind) (off : Nat) (s : State) : Word × State :=
  match k with
  | .sec => (if off = 0x00 then rawOf s .sec else secMasked s, s)
  | .pri =>
    (if off = 0x00 then priRawEff s
      else if off = 0x08 then priMasked s
      else if off = 0x0C then fiqselView s.cfg
      else priOut s, s)
  | .tmr => (cellValue s sl 0x14 ||| 1, s)
  | .bank _ =>
    let r := Config.readOverride sl off (devView s sl)
    (r.1, applyEffect sl r.2 s)
  | .ram _ => (0, s)
  | .other => (0, s)

/-- The write to `TMR_STAT`, write-one-to-clear of `PEND` (44_device_threads.md R207). -/
def writeTmrStat (d : Ident) (v : Word) (s : State) : State :=
  let old := cellValue s d 0x0C
  let new := old &&& ~~~v &&& 1
  let s1 := setCell d 0x0C new s
  if old.getLsbD 0 = true ∧ new.getLsbD 0 = false then driveOutput d false s1 else s1

/-- `WR_OVR[s][off]` (R115): a read-only register accepts and drops the write; an ENABLE register keeps the bits of its
controller's lines (43_interrupt_fabric.md R178). -/
def writeOverride (sl : Ident) (k : SlaveKind) (off : Nat) (v : Word) (s : State) : State :=
  match k with
  | .sec => if off = 0x04 then setCell sl 0x04 (v &&& lineMask s.cfg.nSec) s else s
  | .pri => if off = 0x04 then setCell sl 0x04 (v &&& lineMask s.cfg.nPri) s else s
  | .tmr => writeTmrStat sl v s
  | .bank _ => applyEffect sl (Config.writeOverride sl off v (devView s sl)) s
  | .ram _ => s
  | .other => s

/-- `DEFAULT[s].read(off)` (R118); `Fault` is not reached, the Bus has faulted before. DESIGN CHOICE (log 22): an `Fn` may
clear a line its bank drives. -/
def readDefault (sl : Ident) (k : SlaveKind) (off : Nat) (s : State) : Word × State :=
  match defaultHandler k with
  | .zero => (0, s)
  | .const c => (c, s)
  | .fn =>
    let r := Config.readDefault sl off (stateView s sl)
    (r.1, applyEffect sl r.2 s)
  | .fault => (0, s)

/-- `DEFAULT[s].write(off, v)` (R118); `Zero` and `Const` drop the write. -/
def writeDefault (sl : Ident) (k : SlaveKind) (off : Nat) (v : Word) (s : State) : State :=
  match defaultHandler k with
  | .zero => s
  | .const _ => s
  | .fn => applyEffect sl (Config.writeDefault sl off v (stateView s sl)) s
  | .fault => s

/-- `bank_read_word` (R112). -/
def bankReadWord (sl : Ident) (k : SlaveKind) (off : Nat) (s : State) : Word × State :=
  match bankClass s sl k off .read with
  | .override => readOverride sl k off s
  | .cell => (cellValue s sl off, s)
  | .reserved => (0, s)
  | .dflt => readDefault sl k off s
  | .undecoded => (0, s)

/-- `bank_write_word` (R114). -/
def bankWriteWord (sl : Ident) (k : SlaveKind) (off : Nat) (v : Word) (s : State) : State :=
  match bankClass s sl k off .write with
  | .override => writeOverride sl k off v s
  | .cell => setCell sl off v s
  | .reserved => s
  | .dflt => writeDefault sl k off v s
  | .undecoded => s

/-- `bank_read64` (R116): the low word first. -/
def bankRead64 (sl : Ident) (k : SlaveKind) (off : Nat) (s : State) : DWord × State :=
  let lo := bankReadWord sl k off s
  let hi := bankReadWord sl k (off + 4) lo.2
  (joinWords hi.1 lo.1, hi.2)

/-- `bank_write64` (R116): the low word first. -/
def bankWrite64 (sl : Ident) (k : SlaveKind) (off : Nat) (v : DWord) (s : State) : State :=
  bankWriteWord sl k (off + 4) (highWord v) (bankWriteWord sl k off (lowWord v) s)

end Sys2Proof.Machine
end

