-- ==== Sys2Proof/Machine/Slave.lean ====
section
/-! DEFINITION. The Slave Core contract (40_slave_core.md): capability, aligned and unaligned access at local offsets. -/

namespace Sys2Proof.Machine

/-- Whether a register bank serves an aligned access (R91; 41_register_bank.md R119 for 8 and 16 bits). -/
def bankSupports (s : State) (sl : Ident) (k : SlaveKind) (off len : Nat) (dir : Dir) : Bool :=
  if len = 4 then bankDecodes s sl k off dir
  else if len = 8 then bankSupports64 s sl k off dir
  else
    match subwordOf k with
    | .unsupported => false

/-- The master identity as the functions of a slave see it: the identity where the board gives the slave a `SUPPORTS_M`,
and one fixed value elsewhere, so that the identity "changes no result, unless a device's `SUPPORTS_M[s]` parameter says
otherwise" (20_memory.md R42; 93_implementation_defined.md U13; log 6). -/
def seenMaster (c : Cfg) (sl m : Ident) : Ident := if c.masterFilter.contains sl then m else 0

/-- `S.supports(s, m, off, len, dir)` without `SUPPORTS_M` (R91, R102, R103). -/
def kindSupports (s : State) (sl : Ident) (k : SlaveKind) (m : Ident) (off len : Nat) (dir : Dir) : Bool :=
  match k with
  | .ram size => endsInside off len size
  | .sec => bankSupports s sl k off len dir
  | .pri => bankSupports s sl k off len dir
  | .tmr => bankSupports s sl k off len dir
  | .bank _ => bankSupports s sl k off len dir
  | .other => Config.supportsOther sl (seenMaster s.cfg sl m) off len dir

/-- The optional dependence on the master (R91; 20_memory.md R42; log 6). It does not see the direction, so that `CANREAD` and
`CANWRITE` "agree at every address" for the kinds this spec defines (42_bus.md R159); an `Other` slave with a `SUPPORTS_M`
differs by direction and master through its own function, which then sees both (`seenMaster`). -/
def masterAdmits (c : Cfg) (sl m : Ident) (off len : Nat) : Bool :=
  !c.masterFilter.contains sl || Config.supportsMaster sl m off len

/-- `S.supports(s, m, off, len, dir)` (R91); an id that is no slave serves nothing. -/
def supports (s : State) (sl m : Ident) (off len : Nat) (dir : Dir) : Bool :=
  match kindOf s.cfg sl with
  | some k => kindSupports s sl k m off len dir && masterAdmits s.cfg sl m off len
  | none => false

/-- `S.can(s, m, off, len, dir)` (R92). -/
def canAccess (s : State) (sl m : Ident) (off len : Nat) (dir : Dir) : Bool :=
  if isAligned off len then supports s sl m off len dir
  else (List.range len).all fun i => supports s sl m (off + i) 1 dir

/-- A register bank's aligned read (R94). -/
def bankRead (sl : Ident) (k : SlaveKind) (off len : Nat) (s : State) : DWord × State :=
  if len = 8 then bankRead64 sl k off s
  else
    let r := bankReadWord sl k off s
    (r.1.setWidth 64, r.2)

/-- A register bank's aligned write (R95). -/
def bankWrite (sl : Ident) (k : SlaveKind) (off len : Nat) (v : DWord) (s : State) : State :=
  if len = 8 then bankWrite64 sl k off v s else bankWriteWord sl k off (lowWord v) s

/-- `S.read(s, off, len)` (R94). DESIGN CHOICE (log 22): the read of an `Other` slave may clear a line it drives. -/
def slaveRead (sl m : Ident) (off len : Nat) (s : State) : DWord × State :=
  match kindOf s.cfg sl with
  | some (.ram _) => (fromLe (ramBytes s sl off len), s)
  | some .sec => bankRead sl .sec off len s
  | some .pri => bankRead sl .pri off len s
  | some .tmr => bankRead sl .tmr off len s
  | some (.bank b) => bankRead sl (.bank b) off len s
  | some .other =>
    let r := Config.readOther sl (seenMaster s.cfg sl m) off len (stateView s sl)
    (laneMask r.1 len, applyEffect sl r.2 s)
  | none => (0, s)

/-- `S.write(s, off, len, v)` (R95). -/
def slaveWrite (sl m : Ident) (off len : Nat) (v : DWord) (s : State) : State :=
  match kindOf s.cfg sl with
  | some (.ram _) => ramWrite sl off (bytesLe v len) s
  | some .sec => bankWrite sl .sec off len v s
  | some .pri => bankWrite sl .pri off len v s
  | some .tmr => bankWrite sl .tmr off len v s
  | some (.bank b) => bankWrite sl (.bank b) off len v s
  | some .other =>
    applyEffect sl (Config.writeOther sl (seenMaster s.cfg sl m) off len (laneMask v len) (stateView s sl)) s
  | none => s

/-- Byte reads at `off`, `off + 1`, ..., lowest address first (R96). -/
def readBytes (sl m : Ident) (off : Nat) : Nat → State → List Byte × State
  | 0, s => ([], s)
  | n + 1, s =>
    let r := slaveRead sl m off 1 s
    let rest := readBytes sl m (off + 1) n r.2
    (byteOf r.1 0 :: rest.1, rest.2)

/-- Byte writes at `off`, `off + 1`, ..., in this order (R97). -/
def writeBytes (sl m : Ident) (off : Nat) : List Byte → State → State
  | [], s => s
  | b :: bs, s => writeBytes sl m (off + 1) bs (slaveWrite sl m off 1 (b.setWidth 64) s)

/-- `S.read_u(s, off, len)` (R96). -/
def slaveReadU (sl m : Ident) (off len : Nat) (s : State) : DWord × State :=
  if isAligned off len then slaveRead sl m off len s
  else
    let r := readBytes sl m off len s
    (fromLe r.1, r.2)

/-- `S.write_u(s, off, len, v)` (R97). -/
def slaveWriteU (sl m : Ident) (off len : Nat) (v : DWord) (s : State) : State :=
  if isAligned off len then slaveWrite sl m off len v s else writeBytes sl m off (bytesLe v len) s

end Sys2Proof.Machine
end

