-- ==== Sys2Proof/Machine/Bus.lean ====
section
/-! DEFINITION. The Bus (42_bus.md): range decode, the access procedure behind every `READ*` and `WRITE*`, the probe. -/

namespace Sys2Proof.Machine

/-- A range contains an address: `low <= addr` and `addr < high` (R133). -/
def rangeContains (r : Range) (addr : DWord) : Bool := decide (r.low ≤ addr) && decide (addr < r.high)

/-- Two half-open ranges overlap (R131). -/
def rangesOverlap (a b : Range) : Bool := decide (a.low < b.high) && decide (b.low < a.high)

/-- `decode(addr)` (R133). -/
def decodeAddr (ranges : List Range) (addr : DWord) : Option Range := ranges.find? (rangeContains · addr)

/-- `off = addr - low` (R133; 20_memory.md R41). -/
def localOffset (r : Range) (addr : DWord) : Nat := addr.toNat - r.low.toNat

/-- `high - low`. -/
def rangeSize (r : Range) : Nat := r.high.toNat - r.low.toNat

/-- Where the tests of an access lead, first failure wins (R140, R141; 60_exceptions.md R240). -/
inductive Route where
  | refusedPhase
  | fault (kind : BusFaultKind)
  | hit (r : Range)
  deriving DecidableEq, Repr

/-- The tests of R140 and R141 in their order: phase, decode, range end, alignment of an aligned variant, capability. -/
def routeAccess (s : State) (m : Ident) (addr : DWord) (len : Nat) (unaligned : Bool) (dir : Dir) : Route :=
  if s.phase = .failed then .refusedPhase
  else
    match decodeAddr s.ranges addr with
    | none => .fault .unmapped
    | some r =>
      if !endsInside (localOffset r addr) len (rangeSize r) then .fault .unsupportedAccess
      else if !unaligned && !isAligned (localOffset r addr) len then .fault .unsupportedAccess
      else if !canAccess s r.slave m (localOffset r addr) len dir then .fault .unsupportedAccess
      else .hit r

/-- `BusRead(m, addr, len, u)` (R140); `wrap` types the value at its width (30_encoding.md R77). -/
def busRead (m : Ident) (addr : DWord) (len : Nat) (unaligned : Bool) (wrap : DWord → Data) (s : State) : State :=
  match routeAccess s m addr len unaligned .read with
  | .refusedPhase => refuse .phase s
  | .fault k => raiseBusFault k addr len .read m s
  | .hit r =>
    let v :=
      if unaligned then slaveReadU r.slave m (localOffset r addr) len s
      else slaveRead r.slave m (localOffset r addr) len s
    respond (wrap v.1) v.2

/-- `BusWrite(m, addr, len, u, v)` (R141). -/
def busWrite (m : Ident) (addr : DWord) (len : Nat) (unaligned : Bool) (v : DWord) (s : State) : State :=
  match routeAccess s m addr len unaligned .write with
  | .refusedPhase => refuse .phase s
  | .fault k => raiseBusFault k addr len .write m s
  | .hit r =>
    respond .none
      (if unaligned then slaveWriteU r.slave m (localOffset r addr) len v s
        else slaveWrite r.slave m (localOffset r addr) len v s)

/-- The answer of a probe (R158, R159): true exactly when the unaligned-variant access would succeed; a length that no
access has answers false (log 10). -/
def probeAnswer (s : State) (m : Ident) (addr : DWord) (len : Nat) (dir : Dir) : Bool :=
  match decodeAddr s.ranges addr with
  | none => false
  | some r =>
    isAccessLen len && endsInside (localOffset r addr) len (rangeSize r) &&
      canAccess s r.slave m (localOffset r addr) len dir

/-- A probe at the Bus (R158, R159). -/
def busProbe (m : Ident) (addr : DWord) (len : Nat) (dir : Dir) (s : State) : State :=
  if s.phase = .failed then refuse .phase s else respond (.flag (probeAnswer s m addr len dir)) s

end Sys2Proof.Machine
end

