-- ==== Sys2Proof/Machine/Configuration.lean ====
section
/-! DEFINITION. The configuration operations `ADD_SLAVE` (42_bus.md R130), `ADD_REGISTER` (41_register_bank.md R110),
`CONNECT_LINE_SEC` and `CONNECT_LINE_PRI` (43_interrupt_fabric.md R170, R171). -/

namespace Sys2Proof.Machine

/-- `ADD_SLAVE slave, low, high` (42_bus.md R130, R131). -/
def addSlave (slave : Ident) (low high : DWord) (s : State) : State :=
  let new : Range := ⟨low, high, slave⟩
  if s.phase ≠ .config then refuse .phase s
  else if kindOf s.cfg slave = none then raiseConfigError (.unknownSlave slave) s
  else if ¬ low < high then raiseConfigError (.badRange low high) s
  else if s.ranges.any (rangesOverlap new) then
    raiseConfigError (.overlap low high (s.ranges.filter (rangesOverlap new))) s
  else respond .none (s.setRanges (s.ranges ++ [new]))

/-- The slave is a generic register bank of the board. -/
def isBank (c : Cfg) (slave : Ident) : Bool :=
  match kindOf c slave with
  | some (.bank _) => true
  | _ => false

/-- `ADD_REGISTER slave, offset, reset_value` (41_register_bank.md R110). The record encodes no name (log 9). -/
def addRegister (slave : Ident) (offset resetValue : Word) (s : State) : State :=
  if s.phase ≠ .config then refuse .phase s
  else if !isBank s.cfg slave then raiseConfigError (.notBank slave) s
  else if !isAligned offset.toNat 4 then raiseConfigError (.misalignedOffset slave offset) s
  else if hasCell s slave offset.toNat then raiseConfigError (.duplicateOffset slave offset) s
  else respond .none (s.setBank (mapSet s.bank (cellKey slave offset.toNat) (newCell "" resetValue)))

/-- `CONNECT_LINE_*` (43_interrupt_fabric.md R170, R171). -/
def connectLine (ctl : Ctrl) (dev : Ident) (id : DWord) (s : State) : State :=
  if s.phase ≠ .config then refuse .phase s
  else if lineCount s.cfg ctl ≤ id.toNat then raiseConfigError (.lineOutOfRange ctl id) s
  else if isCascade s.cfg ctl id.toNat || (lineDriver s ctl id.toNat).isSome then
    raiseConfigError (.dupLine ctl id.toNat (lineDriver s ctl id.toNat) dev) s
  else respond .none (bindLine ctl id.toNat dev s)

/-- `ADD_SLAVE` (42_bus.md R130). -/
def execAddSlave (slave : Ident) (low high : DWord) (s : State) : Host.Outcome State Fault Refusal :=
  proceed (addSlave slave low high s)

/-- `ADD_REGISTER` (41_register_bank.md R110). -/
def execAddRegister (slave : Ident) (offset resetValue : Word) (s : State) : Host.Outcome State Fault Refusal :=
  proceed (addRegister slave offset resetValue s)

/-- `CONNECT_LINE_SEC` (43_interrupt_fabric.md R170). -/
def execConnectLineSec (dev : Ident) (id : DWord) (s : State) : Host.Outcome State Fault Refusal :=
  proceed (connectLine .sec dev id s)

/-- `CONNECT_LINE_PRI` (43_interrupt_fabric.md R171). -/
def execConnectLinePri (dev : Ident) (id : DWord) (s : State) : Host.Outcome State Fault Refusal :=
  proceed (connectLine .pri dev id s)

end Sys2Proof.Machine
end

