-- ==== Sys2Proof/Machine/DataAccess.lean ====
section
/-! DEFINITION. The fourteen data-access operations (42_bus.md R142 to R155): `BusRead` or `BusWrite` at fixed length and
variant, values typed at their width (30_encoding.md R77). -/

namespace Sys2Proof.Machine

/-- An 8-bit read value. -/
def asByte (v : DWord) : Data := .byte (v.setWidth 8)

/-- A 16-bit read value. -/
def asHalf (v : DWord) : Data := .half (v.setWidth 16)

/-- A 32-bit read value. -/
def asWord (v : DWord) : Data := .word (v.setWidth 32)

/-- A 64-bit read value. -/
def asDWord (v : DWord) : Data := .dword v

/-- `READ8` (R142). -/
def execRead8 (m : Ident) (addr : DWord) (s : State) : Host.Outcome State Fault Refusal :=
  proceed (busRead m addr 1 false asByte s)

/-- `READ16` (R143). -/
def execRead16 (m : Ident) (addr : DWord) (s : State) : Host.Outcome State Fault Refusal :=
  proceed (busRead m addr 2 false asHalf s)

/-- `READ32` (R144). -/
def execRead32 (m : Ident) (addr : DWord) (s : State) : Host.Outcome State Fault Refusal :=
  proceed (busRead m addr 4 false asWord s)

/-- `READ64` (R145). -/
def execRead64 (m : Ident) (addr : DWord) (s : State) : Host.Outcome State Fault Refusal :=
  proceed (busRead m addr 8 false asDWord s)

/-- `READ16U` (R146). -/
def execRead16u (m : Ident) (addr : DWord) (s : State) : Host.Outcome State Fault Refusal :=
  proceed (busRead m addr 2 true asHalf s)

/-- `READ32U` (R147). -/
def execRead32u (m : Ident) (addr : DWord) (s : State) : Host.Outcome State Fault Refusal :=
  proceed (busRead m addr 4 true asWord s)

/-- `READ64U` (R148). -/
def execRead64u (m : Ident) (addr : DWord) (s : State) : Host.Outcome State Fault Refusal :=
  proceed (busRead m addr 8 true asDWord s)

/-- `WRITE8` (R149). -/
def execWrite8 (m : Ident) (addr : DWord) (v : Byte) (s : State) : Host.Outcome State Fault Refusal :=
  proceed (busWrite m addr 1 false (v.setWidth 64) s)

/-- `WRITE16` (R150). -/
def execWrite16 (m : Ident) (addr : DWord) (v : BitVec 16) (s : State) : Host.Outcome State Fault Refusal :=
  proceed (busWrite m addr 2 false (v.setWidth 64) s)

/-- `WRITE32` (R151). -/
def execWrite32 (m : Ident) (addr : DWord) (v : Word) (s : State) : Host.Outcome State Fault Refusal :=
  proceed (busWrite m addr 4 false (v.setWidth 64) s)

/-- `WRITE64` (R152). -/
def execWrite64 (m : Ident) (addr : DWord) (v : DWord) (s : State) : Host.Outcome State Fault Refusal :=
  proceed (busWrite m addr 8 false v s)

/-- `WRITE16U` (R153). -/
def execWrite16u (m : Ident) (addr : DWord) (v : BitVec 16) (s : State) : Host.Outcome State Fault Refusal :=
  proceed (busWrite m addr 2 true (v.setWidth 64) s)

/-- `WRITE32U` (R154). -/
def execWrite32u (m : Ident) (addr : DWord) (v : Word) (s : State) : Host.Outcome State Fault Refusal :=
  proceed (busWrite m addr 4 true (v.setWidth 64) s)

/-- `WRITE64U` (R155). -/
def execWrite64u (m : Ident) (addr : DWord) (v : DWord) (s : State) : Host.Outcome State Fault Refusal :=
  proceed (busWrite m addr 8 true v s)

end Sys2Proof.Machine
end

