-- ==== Sys2Proof/Machine/DevicePort.lean ====
section
/-! DEFINITION. The device port: `SET_LINE_SEC` and `SET_LINE_PRI` (43_interrupt_fabric.md R172, R173) and `TICK`
(44_device_threads.md R200), with the tick of the reference timer (R206). -/

namespace Sys2Proof.Machine

/-- `SET_LINE_*` (43_interrupt_fabric.md R172, R173). The id is all 64 bits, unsigned (30_encoding.md R72). -/
def setLine (ctl : Ctrl) (dev : Ident) (id : DWord) (b : Bool) (s : State) : State :=
  if s.phase = .failed then refuse .phase s
  else if !drives s dev ctl id.toNat then refuse .line s
  else respond .none (setRaw ctl id.toNat b s)

/-- The counter of a timer, `{cell[d][0x04], cell[d][0x00]}` (44_device_threads.md R206). -/
def tmrCount (s : State) (d : Ident) : DWord := joinWords (cellValue s d 0x04) (cellValue s d 0x00)

/-- `TICK[TMR]` (44_device_threads.md R206). -/
def tickTmr (d : Ident) (s : State) : State :=
  let cnt := tmrCount s d + 1
  let s1 := setCell d 0x04 (highWord cnt) (setCell d 0x00 (lowWord cnt) s)
  if (cellValue s d 0x08).toNat ≤ cnt.toNat then driveOutput d true (setCell d 0x0C 1 s1) else s1

/-- `TICK[d]` (44_device_threads.md R200, R201). -/
def tickDevice (d : Ident) (s : State) : State :=
  match kindOf s.cfg d with
  | some .tmr => tickTmr d s
  | _ => applyEffect d (Config.tick d (devView s d)) s

/-- `TICK dev` (44_device_threads.md R200, R203). -/
def tickStep (d : Ident) (s : State) : State :=
  if s.phase = .failed then refuse .phase s
  else if !autonomous s.cfg d || decide (runState s d ≠ .running) then refuse .device s
  else if devErrorHolds s.cfg d (devView s d) then respond .none (setRunState d .inert s)
  else respond .none (tickDevice d s)

/-- `SET_LINE_SEC` (43_interrupt_fabric.md R172). -/
def execSetLineSec (dev : Ident) (id : DWord) (b : Bool) (s : State) : Host.Outcome State Fault Refusal :=
  proceed (setLine .sec dev id b s)

/-- `SET_LINE_PRI` (43_interrupt_fabric.md R173). -/
def execSetLinePri (dev : Ident) (id : DWord) (b : Bool) (s : State) : Host.Outcome State Fault Refusal :=
  proceed (setLine .pri dev id b s)

/-- `TICK` (44_device_threads.md R200). -/
def execTick (dev : Ident) (s : State) : Host.Outcome State Fault Refusal := proceed (tickStep dev s)

end Sys2Proof.Machine
end

