-- ==== Sys2Proof/Machine/Lifecycle.lean ====
section
/-! DEFINITION. `START_ALL` and `HALT_ALL` (42_bus.md R162, R163). -/

namespace Sys2Proof.Machine

/-- `run[d] <- Running` for every autonomous device (42_bus.md R162). -/
def startDevices (s : State) : State :=
  s.setRun ((autonomousIds s.cfg).foldl (fun m d => mapSet m d.toNat .running) s.run)

/-- `START_ALL` (42_bus.md R162). -/
def startAll (s : State) : State :=
  match s.phase with
  | .config => respond .none ((startDevices s).setPhase .run)
  | .run => respond .none s
  | .halted => refuse .phase s
  | .failed => refuse .phase s

/-- A Running device halts; "Inert stays Inert" (42_bus.md R163). -/
def haltRun (r : RunState) : RunState := if r = .running then .halted else r

/-- `HALT_ALL` (42_bus.md R163). -/
def haltAll (s : State) : State :=
  match s.phase with
  | .run =>
    respond .none (((s.setShouldHalt true).setRun (s.run.map fun p => (p.1, haltRun p.2))).setPhase .halted)
  | .halted => respond .none s
  | .config => refuse .phase s
  | .failed => refuse .phase s

/-- `START_ALL` (42_bus.md R162). -/
def execStartAll (s : State) : Host.Outcome State Fault Refusal := proceed (startAll s)

/-- `HALT_ALL` (42_bus.md R163). -/
def execHaltAll (s : State) : Host.Outcome State Fault Refusal := proceed (haltAll s)

end Sys2Proof.Machine
end

