-- ==== Sys2Proof/Machine/Query.lean ====
section
/-! DEFINITION. The probes `CANREAD` and `CANWRITE` (42_bus.md R158, R159) and the interrupt queries `IRQ_Q` and `FIQ_Q`
(43_interrupt_fabric.md R180, R181). They change no state of the fabric. -/

namespace Sys2Proof.Machine

/-- A query of one output level (43_interrupt_fabric.md R180, R182). -/
def queryLevel (level : State → Bool) (s : State) : State :=
  if s.phase = .failed then refuse .phase s else respond (.flag (level s)) s

/-- `CANREAD` (42_bus.md R158). -/
def execCanread (m : Ident) (addr : DWord) (len : Nat) (s : State) : Host.Outcome State Fault Refusal :=
  proceed (busProbe m addr len .read s)

/-- `CANWRITE` (42_bus.md R159). -/
def execCanwrite (m : Ident) (addr : DWord) (len : Nat) (s : State) : Host.Outcome State Fault Refusal :=
  proceed (busProbe m addr len .write s)

/-- `IRQ_Q` (43_interrupt_fabric.md R180). -/
def execIrqQ (s : State) : Host.Outcome State Fault Refusal := proceed (queryLevel irq s)

/-- `FIQ_Q` (43_interrupt_fabric.md R181). -/
def execFiqQ (s : State) : Host.Outcome State Fault Refusal := proceed (queryLevel fiq s)

end Sys2Proof.Machine
end

