-- ==== Sys2Proof/Machine/Dispatch.lean ====
section
/-! DEFINITION. One arm per operation (30_encoding.md R74). -/

namespace Sys2Proof.Machine

def exec (i : Instr) (s : State) : Host.Outcome State Fault Refusal :=
  match i with
  | .read8 m a => Sys2Proof.Machine.execRead8 m a s
  | .read16 m a => Sys2Proof.Machine.execRead16 m a s
  | .read32 m a => Sys2Proof.Machine.execRead32 m a s
  | .read64 m a => Sys2Proof.Machine.execRead64 m a s
  | .read16u m a => Sys2Proof.Machine.execRead16u m a s
  | .read32u m a => Sys2Proof.Machine.execRead32u m a s
  | .read64u m a => Sys2Proof.Machine.execRead64u m a s
  | .write8 m a v => Sys2Proof.Machine.execWrite8 m a v s
  | .write16 m a v => Sys2Proof.Machine.execWrite16 m a v s
  | .write32 m a v => Sys2Proof.Machine.execWrite32 m a v s
  | .write64 m a v => Sys2Proof.Machine.execWrite64 m a v s
  | .write16u m a v => Sys2Proof.Machine.execWrite16u m a v s
  | .write32u m a v => Sys2Proof.Machine.execWrite32u m a v s
  | .write64u m a v => Sys2Proof.Machine.execWrite64u m a v s
  | .canread m a len => Sys2Proof.Machine.execCanread m a len s
  | .canwrite m a len => Sys2Proof.Machine.execCanwrite m a len s
  | .irqQ => Sys2Proof.Machine.execIrqQ s
  | .fiqQ => Sys2Proof.Machine.execFiqQ s
  | .setLineSec d id v => Sys2Proof.Machine.execSetLineSec d id v s
  | .setLinePri d id v => Sys2Proof.Machine.execSetLinePri d id v s
  | .tick d => Sys2Proof.Machine.execTick d s
  | .addSlave sl low high => Sys2Proof.Machine.execAddSlave sl low high s
  | .addRegister sl off rv => Sys2Proof.Machine.execAddRegister sl off rv s
  | .connectLineSec d id => Sys2Proof.Machine.execConnectLineSec d id s
  | .connectLinePri d id => Sys2Proof.Machine.execConnectLinePri d id s
  | .startAll => Sys2Proof.Machine.execStartAll s
  | .haltAll => Sys2Proof.Machine.execHaltAll s

end Sys2Proof.Machine
end

