-- ==== Sys2Proof/Machine/Step.lean ====
section
/-! DEFINITION. One step of the fabric: the next presented request is taken, decoded and executed (00_scope.md R8). -/

namespace Sys2Proof.Machine

/-- One atomic step. With no request presented nothing happens (10_state.md R12; log 1). A reserved `cmd` is refused with
`REFUSED_ENCODING`, in every phase (30_encoding.md R78). -/
def step (s : State) : Host.Outcome State Fault Refusal :=
  match takeRequest s with
  | none => .next s
  | some (q, s1) =>
    match decodeRecord q with
    | .ok i => exec i s1
    | .error _ => proceed (refuse .encoding s1)

/-- The state in which the record with low bits `w` is the next request (30_encoding.md R71). -/
def State.withFetchWord (s : State) (nbits w : Nat) : State := presentRequest (recordOfTableWord nbits w) s

end Sys2Proof.Machine
end

