-- ==== Sys2Proof/Machine/Assembly.lean ====
section
/-! DEFINITION. Board Assembly as the operations it issues, in order (45_board_assembly.md R220 to R225; 30_encoding.md
R80). It adds no operation to the fabric; the release of the CPU is no operation of the fabric (R222). -/

namespace Sys2Proof.Machine

/-- The `ADD_REGISTER` operations of one slave (45_board_assembly.md R221, step 1). -/
def buildOps : Ident × SlaveKind → List Instr
  | (s, .bank b) => b.regs.map fun r => .addRegister s r.offset r.resetValue
  | (_, .ram _) => []
  | (_, .sec) => []
  | (_, .pri) => []
  | (_, .tmr) => []
  | (_, .other) => []

/-- One row of the memory map (45_board_assembly.md R221, step 2). -/
def bindOp (r : MapRow) : Instr := .addSlave r.slave r.low r.high

/-- One wire (45_board_assembly.md R221, step 3). -/
def wireOp (w : Wire) : Instr :=
  match w.ctrl with
  | .sec => .connectLineSec w.dev w.id
  | .pri => .connectLinePri w.dev w.id

/-- `setup(cpu, bus, main_ram)`: build, bind, wire, "in this order" (45_board_assembly.md R221). -/
def setupOps (c : Cfg) : List Instr :=
  (c.slaves.map buildOps).flatten ++ c.memoryMap.map bindOp ++ c.wires.map wireOp

/-- `start()` (45_board_assembly.md R222). -/
def startOps : List Instr := [.startAll]

/-- `stop()` (45_board_assembly.md R223). -/
def stopOps : List Instr := [.haltAll]

end Sys2Proof.Machine
end

