-- ==== Sys2Proof/Safety.lean ====
section
/-! DEFINITION. The terms claims are stated in: what an access asks for, the phase gate, the invariants of the fabric, clean
runs, and schedules of requests. -/

namespace Sys2Proof.Safety

open Sys2Proof.Machine

/-- What a data access asks for (42_bus.md R140, R141). -/
structure Access where
  master : Ident
  addr : DWord
  len : Nat
  unaligned : Bool
  dir : Dir
  deriving DecidableEq, Repr

/-- The access an operation is, for the fourteen data-access operations (42_bus.md R142 to R155). -/
def accessOf : Instr → Option Access
  | .read8 m a => some ⟨m, a, 1, false, .read⟩
  | .read16 m a => some ⟨m, a, 2, false, .read⟩
  | .read32 m a => some ⟨m, a, 4, false, .read⟩
  | .read64 m a => some ⟨m, a, 8, false, .read⟩
  | .read16u m a => some ⟨m, a, 2, true, .read⟩
  | .read32u m a => some ⟨m, a, 4, true, .read⟩
  | .read64u m a => some ⟨m, a, 8, true, .read⟩
  | .write8 m a _ => some ⟨m, a, 1, false, .write⟩
  | .write16 m a _ => some ⟨m, a, 2, false, .write⟩
  | .write32 m a _ => some ⟨m, a, 4, false, .write⟩
  | .write64 m a _ => some ⟨m, a, 8, false, .write⟩
  | .write16u m a _ => some ⟨m, a, 2, true, .write⟩
  | .write32u m a _ => some ⟨m, a, 4, true, .write⟩
  | .write64u m a _ => some ⟨m, a, 8, true, .write⟩
  | .canread .. | .canwrite .. | .irqQ | .fiqQ | .setLineSec .. | .setLinePri .. | .tick .. => none
  | .addSlave .. | .addRegister .. | .connectLineSec .. | .connectLinePri .. | .startAll | .haltAll => none

/-- The value a `WRITE*` stores, zero-extended to 64 bits (30_encoding.md R72, R77); 0 for an operation that is no
write. -/
def writeValue : Instr → DWord
  | .write8 _ _ v => v.setWidth 64
  | .write16 _ _ v | .write16u _ _ v => v.setWidth 64
  | .write32 _ _ v | .write32u _ _ v => v.setWidth 64
  | .write64 _ _ v | .write64u _ _ v => v
  | .read8 .. | .read16 .. | .read32 .. | .read64 .. | .read16u .. | .read32u .. | .read64u .. => 0
  | .canread .. | .canwrite .. | .irqQ | .fiqQ | .setLineSec .. | .setLinePri .. | .tick .. => 0
  | .addSlave .. | .addRegister .. | .connectLineSec .. | .connectLinePri .. | .startAll | .haltAll => 0

/-- A read value of `len` bytes, typed at its width (30_encoding.md R77). -/
def typedValue (len : Nat) (v : DWord) : Data :=
  if len = 1 then .byte (v.setWidth 8)
  else if len = 2 then .half (v.setWidth 16)
  else if len = 4 then .word (v.setWidth 32)
  else .dword v

/-- The same operation presented by another master; operations without a master are unchanged
(60_exceptions.md R246). -/
def withMaster (m : Ident) : Instr → Instr
  | .read8 _ a => .read8 m a
  | .read16 _ a => .read16 m a
  | .read32 _ a => .read32 m a
  | .read64 _ a => .read64 m a
  | .read16u _ a => .read16u m a
  | .read32u _ a => .read32u m a
  | .read64u _ a => .read64u m a
  | .write8 _ a v => .write8 m a v
  | .write16 _ a v => .write16 m a v
  | .write32 _ a v => .write32 m a v
  | .write64 _ a v => .write64 m a v
  | .write16u _ a v => .write16u m a v
  | .write32u _ a v => .write32u m a v
  | .write64u _ a v => .write64u m a v
  | .canread _ a len => .canread m a len
  | .canwrite _ a len => .canwrite m a len
  | .irqQ => .irqQ
  | .fiqQ => .fiqQ
  | .setLineSec d id v => .setLineSec d id v
  | .setLinePri d id v => .setLinePri d id v
  | .tick d => .tick d
  | .addSlave sl l h => .addSlave sl l h
  | .addRegister sl o rv => .addRegister sl o rv
  | .connectLineSec d id => .connectLineSec d id
  | .connectLinePri d id => .connectLinePri d id
  | .startAll => .startAll
  | .haltAll => .haltAll

/-- The operation `SET_LINE_SEC` or `SET_LINE_PRI` (43_interrupt_fabric.md R172, R173). -/
def setLineOp : Ctrl → Ident → DWord → Bool → Instr
  | .sec, d, id, b => .setLineSec d id b
  | .pri, d, id, b => .setLinePri d id b

/-- The operation `CONNECT_LINE_SEC` or `CONNECT_LINE_PRI` (43_interrupt_fabric.md R170, R171). -/
def connectOp : Ctrl → Ident → DWord → Instr
  | .sec, d, id => .connectLineSec d id
  | .pri, d, id => .connectLinePri d id

/-- The ranges of reserved `cmd` values, ends included, as 30_encoding.md R78 lists them. -/
def reservedCmds : List (Nat × Nat) :=
  [(0x04, 0x08), (0x0C, 0x0F), (0x14, 0x18), (0x1C, 0x3F), (0x44, 0x4F), (0x54, 0x5F), (0x62, 0x7F), (0x82, 0x87),
    (0x89, 0xBF), (0xC4, 0xC7), (0xCA, 0xFF)]

/-- Operations performed one after another (20_memory.md R53): the state they lead to. -/
def runOps : List Instr → State → Option State
  | [], s => some s
  | i :: rest, s =>
    match exec i s with
    | .next t => runOps rest t
    | .fault _ => none
    | .refused _ => none

/-- Operations performed one after another: their responses, in order. -/
def responsesOf : List Instr → State → List (Option Response)
  | [], _ => []
  | i :: rest, s =>
    match exec i s with
    | .next t => t.response :: responsesOf rest t
    | .fault _ => []
    | .refused _ => []

/-- The operation ends with status OK and these data, and nothing else changes. -/
def Answers (i : Instr) (s : State) (d : Data) : Prop := exec i s = .next { s with response := some (.ok d) }

/-- The operation is the data access `a` and ends in a bus fault of this kind, whose record holds the operands of the
request, and nothing else changes (60_exceptions.md R231, R236). -/
def FaultsWith (i : Instr) (s : State) (a : Access) (kind : BusFaultKind) : Prop :=
  exec i s = .next { s with response := some (.busFault kind a.addr a.len a.dir a.master) }

/-- The operation is refused for this reason and no state of the fabric changes (60_exceptions.md R234). The frame leaves
out the model's own mark `sawRefusal` (log 3). -/
def RefusedWith (i : Instr) (s : State) (why : RefuseReason) : Prop :=
  ∃ t, exec i s = .next t ∧ t.response = some (.refused why) ∧
    { t with response := s.response, sawRefusal := s.sawRefusal } = s

/-- The operation fails with a configuration error of this status, and nothing changes but `phase <- FAILED`
(60_exceptions.md R233). -/
def FailsConfig (i : Instr) (s : State) (code : Byte) : Prop :=
  ∃ kind, statusCode (.configError kind) = code ∧
    exec i s = .next { s with phase := .failed, response := some (.configError kind) }

/-- The entries "refused" of the table of 60_exceptions.md R246 that carry `REFUSED_PHASE`; the two of `TICK` outside
`FAILED` carry `REFUSED_DEVICE` (44_device_threads.md R200). -/
def phaseRefuses (i : Instr) (p : Phase) : Bool :=
  match i with
  | .addSlave .. | .addRegister .. | .connectLineSec .. | .connectLinePri .. => decide (p ≠ .config)
  | .startAll => decide (p = .halted ∨ p = .failed)
  | .haltAll => decide (p = .config ∨ p = .failed)
  | .read8 .. | .read16 .. | .read32 .. | .read64 .. | .read16u .. | .read32u .. | .read64u .. => decide (p = .failed)
  | .write8 .. | .write16 .. | .write32 .. | .write64 .. => decide (p = .failed)
  | .write16u .. | .write32u .. | .write64u .. => decide (p = .failed)
  | .canread .. | .canwrite .. | .irqQ | .fiqQ => decide (p = .failed)
  | .setLineSec .. | .setLinePri .. | .tick .. => decide (p = .failed)

/-- An address falls in a bound range `r`, and no earlier entry of the table contains it; with the ranges disjoint, `r` is
the one range that contains it (42_bus.md R133). -/
def Mapped (s : State) (addr : DWord) (r : Range) : Prop := decodeAddr s.ranges addr = some r

/-- An access of `len` bytes at `addr` stays inside range `r` and the fabric serves it: not `FAILED`, mapped, not past
the range's end (42_bus.md R140, tests 1 to 3). -/
def InRange (s : State) (addr : DWord) (len : Nat) (r : Range) : Prop :=
  s.phase ≠ .failed ∧ Mapped s addr r ∧ localOffset r addr + len ≤ rangeSize r

/-- Slave `sl` is of kind `k` and its capability does not depend on the master (20_memory.md R42). -/
def PlainSlave (s : State) (sl : Ident) (k : SlaveKind) : Prop :=
  kindOf s.cfg sl = some k ∧ sl ∉ s.cfg.masterFilter

/-- Slave `sl` is of kind `k`, and its `SUPPORTS_M`, where it has one, admits the access (20_memory.md R42; how a
`SUPPORTS_M` enters is the model's choice, log 6). -/
def AdmittedSlave (s : State) (sl : Ident) (k : SlaveKind) (m : Ident) (off len : Nat) : Prop :=
  kindOf s.cfg sl = some k ∧ (sl ∈ s.cfg.masterFilter → Config.supportsMaster sl m off len = true)

/-- The kind of slave a controller is (10_state.md R21, R22). -/
def ctrlKind : Ctrl → SlaveKind
  | .sec => .sec
  | .pri => .pri

/-- A kind that is a register bank (40_slave_core.md R91). -/
def isBankKind : SlaveKind → Bool
  | .sec | .pri | .tmr | .bank _ => true
  | .ram _ | .other => false

/-- The offsets with an override, as the tables of 41_register_bank.md R113 and R115 list them; a generic bank's are its
parameters. -/
def overrideAt : SlaveKind → Dir → Nat → Prop
  | .sec, .read, off => off = 0x00 ∨ off = 0x08
  | .sec, .write, off => off = 0x00 ∨ off = 0x04 ∨ off = 0x08
  | .pri, .read, off => off = 0x00 ∨ off = 0x08 ∨ off = 0x0C ∨ off = 0x10
  | .pri, .write, off => off = 0x00 ∨ off = 0x04 ∨ off = 0x08 ∨ off = 0x0C ∨ off = 0x10
  | .tmr, .read, off => off = 0x14
  | .tmr, .write, off => off = 0x0C
  | .bank b, .read, off => ∃ o ∈ b.rdOvr, o.toNat = off
  | .bank b, .write, off => ∃ o ∈ b.wrOvr, o.toNat = off
  | .ram _, _, _ | .other, _, _ => False

/-- The bank of slave `sl` has a cell at `off`; an offset at or above 2^32 is no key (20_memory.md R41). -/
def cellAt (s : State) (sl : Ident) (off : Nat) : Prop :=
  off < 2 ^ 32 ∧ ∃ cell, mapGet s.bank (cellKey sl off) = some cell

/-- The reserved offsets, as 41_register_bank.md R117 lists them; a generic bank's are its parameter. -/
def reservedAt : SlaveKind → Nat → Prop
  | .sec, off => off = 0x0C
  | .pri, off => off = 0x14 ∨ off = 0x18 ∨ off = 0x1C
  | .tmr, off => off = 0x10
  | .bank b, off => off ∈ b.reserved
  | .ram _, _ | .other, _ => False

/-- `DEFAULT[s]` is not `Fault`; "SEC, PRI and TMR use `Fault`" (41_register_bank.md R118). -/
def hasDefault (k : SlaveKind) : Prop := ∃ b, k = .bank b ∧ b.dflt ≠ .fault

/-- The table of 41_register_bank.md R111: the class of an offset is the first whose condition holds. -/
structure ClassTable (s : State) (sl : Ident) (k : SlaveKind) (off : Nat) (dir : Dir) : Prop where
  override : bankClass s sl k off dir = .override ↔ off < 2 ^ 32 ∧ overrideAt k dir off
  cell : bankClass s sl k off dir = .cell ↔ ¬ (off < 2 ^ 32 ∧ overrideAt k dir off) ∧ cellAt s sl off
  reserved : bankClass s sl k off dir = .reserved ↔
    ¬ (off < 2 ^ 32 ∧ overrideAt k dir off) ∧ ¬ cellAt s sl off ∧ reservedAt k off
  dflt : bankClass s sl k off dir = .dflt ↔
    ¬ (off < 2 ^ 32 ∧ overrideAt k dir off) ∧ ¬ cellAt s sl off ∧ ¬ reservedAt k off ∧ hasDefault k
  undecoded : bankClass s sl k off dir = .undecoded ↔
    ¬ (off < 2 ^ 32 ∧ overrideAt k dir off) ∧ ¬ cellAt s sl off ∧ ¬ reservedAt k off ∧ ¬ hasDefault k

/-- `WL64[s]` admits an offset: SEC and PRI have an empty whitelist, TMR has `{0x00}`, a generic bank's is its parameter,
`none` where it restricts nothing (10_state.md R21 to R23; 41_register_bank.md R116). -/
def admits64 : SlaveKind → Nat → Prop
  | .sec, _ | .pri, _ => False
  | .tmr, off => off = 0x00
  | .bank b, off => b.wl64 = none ∨ ∃ wl, b.wl64 = some wl ∧ off ∈ wl
  | .ram _, _ | .other, _ => False

/-- The invariant of the range table (10_state.md R14). -/
def RangesDisjoint (s : State) : Prop :=
  (∀ r ∈ s.ranges, r.low < r.high) ∧ s.ranges.Pairwise fun a b => a.high ≤ b.low ∨ b.high ≤ a.low

/-- Every map of the state is in its canonical form. -/
def MapsCanonical (s : State) : Prop :=
  s.ram.wf = true ∧ mapWf s.bank = true ∧ mapWf s.run = true ∧ mapWf s.sec.conn = true ∧
    mapWf s.pri.conn = true ∧ mapWf s.devState = true

/-- A line with its raw bit set is a line a device drives; a wired line is the cascade line, driven by the secondary's
aggregate, or an existing line driven by a device; the cascade line is wired (10_state.md R16, R18;
43_interrupt_fabric.md R176). -/
structure LinesWired (s : State) : Prop where
  raw_driven : ∀ ctl id, (controller s ctl).raw.getLsbD id = true → ∃ d, drives s d ctl id = true
  driver_legal : ∀ ctl id drv, lineDriver s ctl id = some drv →
    (isCascade s.cfg ctl id = true ∧ drv = .secAggr) ∨
      (isCascade s.cfg ctl id = false ∧ id < lineCount s.cfg ctl ∧ ∃ d, drv = .dev d)
  cascade_wired : ∀ id, isCascade s.cfg .pri id = true → lineDriver s .pri id = some .secAggr

/-- Every cell of the fixed register maps exists (41_register_bank.md R110), and every cell's offset is a multiple of 4
(10_state.md R11). -/
structure BanksComplete (s : State) : Prop where
  fixed_cells : ∀ sl k, kindOf s.cfg sl = some k → ∀ p ∈ resetCells k, hasCell s sl p.1 = true
  offsets_aligned : ∀ p ∈ s.bank, p.1 % 4 = 0

/-- Every generic bank has the cells of its `REGS[s]`: its construction is complete (10_state.md R11; 45_board_assembly.md
R221). -/
def RegistersAdded (s : State) : Prop :=
  ∀ sl b, kindOf s.cfg sl = some (.bank b) → ∀ g ∈ b.regs, cellAt s sl g.offset.toNat

/-- Bits of an ENABLE register at and above `N_c` are 0 (10_state.md R21, R22). -/
def EnablesMasked (s : State) : Prop :=
  s.cfg.secId ≠ s.cfg.priId → ∀ ctl, enableOf s ctl &&& lineMask (lineCount s.cfg ctl) = enableOf s ctl

/-- Bits 31:1 of `TMR_STAT` are 0 (44_device_threads.md R207). -/
def StatsOneBit (s : State) : Prop := ∀ d, kindOf s.cfg d = some .tmr → (cellValue s d 0x0C).toNat ≤ 1

/-- What the phase says of the halt flag and of the device agents (10_state.md R13, R24). `not_started` speaks of every
device id; of a device that is not autonomous it is the model's choice (log 16). -/
structure LifecycleOk (s : State) : Prop where
  halt_flag : s.shouldHalt = true ↔ s.phase = .halted
  not_started : s.phase = .config ∨ s.phase = .failed → ∀ d, runState s d = .idle
  started : s.phase = .run → ∀ d, autonomous s.cfg d = true → runState s d = .running ∨ runState s d = .inert
  stopped : s.phase = .halted → ∀ d, autonomous s.cfg d = true → runState s d = .halted ∨ runState s d = .inert

/-- `PEND` of a timer. -/
def pend (s : State) (d : Ident) : Bool := (cellValue s d 0x0C).getLsbD 0

/-- The invariant of the reference timer (44_device_threads.md R209): a timer that drives its output has the line's raw bit
equal to `PEND`; before start, no timer has `PEND`. -/
structure PendMatchesLine (s : State) : Prop where
  raw_eq_pend : ∀ d l, kindOf s.cfg d = some .tmr → irqOutOf s.cfg d = some l → drives s d l.ctrl l.id = true →
    (controller s l.ctrl).raw.getLsbD l.id = pend s d
  config_clear : s.phase = .config → ∀ d, kindOf s.cfg d = some .tmr → pend s d = false

/-- The operation is a `SET_LINE_*` in the name of a timer (44_device_threads.md R209). -/
def setsTimerLine (c : Cfg) (i : Instr) : Prop :=
  ∃ ctl d id b, i = setLineOp ctl d id b ∧ kindOf c d = some .tmr

/-- The device whose own functions an operation can run: the ticking device, or the slave that a data access reaches
(41_register_bank.md R113; 44_device_threads.md R201). -/
def actsOn (s : State) (i : Instr) (d : Ident) : Prop :=
  i = .tick d ∨ ∃ a r, accessOf i = some a ∧ Mapped s a.addr r ∧ r.slave = d

/-- The invariants of the range table, the maps, the wiring, the banks, the masks and the lifecycle, together. -/
structure FabricInv (s : State) : Prop where
  ranges : RangesDisjoint s
  maps : MapsCanonical s
  lines : LinesWired s
  banks : BanksComplete s
  enables : EnablesMasked s
  stats : StatsOneBit s
  lifecycle : LifecycleOk s

/-- A run of which the model makes claims: it contains no refusal (60_exceptions.md R234; log 3). -/
def cleanRun (s : State) : Prop := s.sawRefusal = false

/-- The state after `n` operations of an endless schedule, one presented at each step. -/
def scheduled (sched : Nat → Instr) (s : State) : Nat → State
  | 0 => s
  | n + 1 =>
    match exec (sched n) (scheduled sched s n) with
    | .next t => t
    | .fault _ => scheduled sched s n
    | .refused _ => scheduled sched s n

/-- Weak fairness of ticks: "a device whose `run` is `Running` ticks again after finitely many steps of other agents"
(44_device_threads.md R202; 92_eei_decisions.md D38). -/
def WeaklyFair (sched : Nat → Instr) (s : State) : Prop :=
  ∀ d n, runState (scheduled sched s n) d = .running →
    ∃ m, n ≤ m ∧ (sched m = .tick d ∨ runState (scheduled sched s m) d ≠ .running)

end Sys2Proof.Safety
end

