-- ==== Sys2Proof/Certificates/Slice0/Obligations.lean ====
section
/-! DEFINITION. The statements for the provers. Each docstring names the rules of spec/ it formalises. In every statement the
fields `response`, `pending` and `sawRefusal` are the model's own record of the response `P`, of the presented requests and of
a refusal in the run (logs 1, 3, 11); every other field is state of the fabric. -/

open Sys2Proof Sys2Proof.Machine Sys2Proof.Safety

/-! ### Encoding -/

/-- Decoding what the encoder writes gives the operation back, as a record and as the first 19 bytes of a byte string
(30_encoding.md R71, R72, R74). -/
def Obligations.DecodeEncodeRoundTrip : Prop :=
  ∀ (i : Instr) (rest : List Byte), i.wf = true →
    decodeRecord (encode i) = .ok i ∧ decodeBytes (recordBytes (encode i) ++ rest) = .ok (i, rest)

/-- Every code point of the map, with the operands taken from `a`, `b`, `c` (30_encoding.md R72, R74). -/
def Obligations.OperandAssembly : Prop :=
  ∀ (a : Ident) (b c : DWord),
    decodeRecord (mkRecord 0x00 a b c) = .ok (.read8 a b) ∧
    decodeRecord (mkRecord 0x01 a b c) = .ok (.read16 a b) ∧
    decodeRecord (mkRecord 0x02 a b c) = .ok (.read32 a b) ∧
    decodeRecord (mkRecord 0x03 a b c) = .ok (.read64 a b) ∧
    decodeRecord (mkRecord 0x09 a b c) = .ok (.read16u a b) ∧
    decodeRecord (mkRecord 0x0A a b c) = .ok (.read32u a b) ∧
    decodeRecord (mkRecord 0x0B a b c) = .ok (.read64u a b) ∧
    decodeRecord (mkRecord 0x10 a b c) = .ok (.write8 a b (c.setWidth 8)) ∧
    decodeRecord (mkRecord 0x11 a b c) = .ok (.write16 a b (c.setWidth 16)) ∧
    decodeRecord (mkRecord 0x12 a b c) = .ok (.write32 a b (c.setWidth 32)) ∧
    decodeRecord (mkRecord 0x13 a b c) = .ok (.write64 a b c) ∧
    decodeRecord (mkRecord 0x19 a b c) = .ok (.write16u a b (c.setWidth 16)) ∧
    decodeRecord (mkRecord 0x1A a b c) = .ok (.write32u a b (c.setWidth 32)) ∧
    decodeRecord (mkRecord 0x1B a b c) = .ok (.write64u a b c) ∧
    decodeRecord (mkRecord 0x40 a b c) = .ok (.canread a b 1) ∧
    decodeRecord (mkRecord 0x41 a b c) = .ok (.canread a b 2) ∧
    decodeRecord (mkRecord 0x42 a b c) = .ok (.canread a b 4) ∧
    decodeRecord (mkRecord 0x43 a b c) = .ok (.canread a b 8) ∧
    decodeRecord (mkRecord 0x50 a b c) = .ok (.canwrite a b 1) ∧
    decodeRecord (mkRecord 0x51 a b c) = .ok (.canwrite a b 2) ∧
    decodeRecord (mkRecord 0x52 a b c) = .ok (.canwrite a b 4) ∧
    decodeRecord (mkRecord 0x53 a b c) = .ok (.canwrite a b 8) ∧
    decodeRecord (mkRecord 0x60 a b c) = .ok .irqQ ∧
    decodeRecord (mkRecord 0x61 a b c) = .ok .fiqQ ∧
    decodeRecord (mkRecord 0x80 a b c) = .ok (.setLineSec a b (c.getLsbD 0)) ∧
    decodeRecord (mkRecord 0x81 a b c) = .ok (.setLinePri a b (c.getLsbD 0)) ∧
    decodeRecord (mkRecord 0x88 a b c) = .ok (.tick a) ∧
    decodeRecord (mkRecord 0xC0 a b c) = .ok (.addSlave a b c) ∧
    decodeRecord (mkRecord 0xC1 a b c) = .ok (.addRegister a (b.setWidth 32) (c.setWidth 32)) ∧
    decodeRecord (mkRecord 0xC2 a b c) = .ok (.connectLineSec a b) ∧
    decodeRecord (mkRecord 0xC3 a b c) = .ok (.connectLinePri a b) ∧
    decodeRecord (mkRecord 0xC8 a b c) = .ok .startAll ∧
    decodeRecord (mkRecord 0xC9 a b c) = .ok .haltAll

/-- The reserved `cmd` values are those of the list of 30_encoding.md R78 and no others, and a step that takes such a record
answers `REFUSED_ENCODING` and changes no state. The frame leaves out the model's own `pending` (the request is taken: log 1)
and `sawRefusal` (log 3). -/
def Obligations.ReservedCmdRefused : Prop :=
  ∀ (q : Request) (rest : List Request) (s : State), s.pending = q :: rest →
    ((∃ p ∈ reservedCmds, p.1 ≤ (cmdField q).toNat ∧ (cmdField q).toNat ≤ p.2) ↔
      decodeRecord q = .error (.reservedCmd (cmdField q))) ∧
    ((∃ p ∈ reservedCmds, p.1 ≤ (cmdField q).toNat ∧ (cmdField q).toNat ≤ p.2) →
      ∃ t, step s = .next t ∧ t.response = some (.refused .encoding) ∧
        { t with pending := s.pending, response := s.response, sawRefusal := s.sawRefusal } = s)

/-- The fields of the request record and its 19 bytes, and the fields of the response record and its 9 bytes
(30_encoding.md R71). -/
def Obligations.RecordLayout : Prop :=
  ∀ (cmd : Byte) (a : Ident) (b c : DWord) (r : Response) (q : Request) (rest : List Byte),
    cmdField (mkRecord cmd a b c) = cmd ∧ aField (mkRecord cmd a b c) = a ∧ bField (mkRecord cmd a b c) = b ∧
    cField (mkRecord cmd a b c) = c ∧
    recordBytes (mkRecord cmd a b c) = cmd :: (bytesLe (a.setWidth 64) 2 ++ bytesLe b 8 ++ bytesLe c 8) ∧
    decodeBytes (recordBytes q ++ rest) = (decodeRecord q).map (fun i => (i, rest)) ∧
    (responseRecord r).extractLsb' 0 8 = statusCode r ∧ (responseRecord r).extractLsb' 8 64 = responseData r ∧
    responseBytes r = statusCode r :: bytesLe (responseData r) 8

/-- The status numbers; the value of an `OK` response, zero-extended, zero where the operation answers none; and no data
beside a status other than `OK` (30_encoding.md R75, R76, R77). -/
def Obligations.StatusCodes : Prop :=
  (∀ d, statusCode (.ok d) = 0x00) ∧
  (∀ a n d m, statusCode (.busFault .unmapped a n d m) = 0x01) ∧
  (∀ a n d m, statusCode (.busFault .unsupportedAccess a n d m) = 0x02) ∧
  (∀ l h rs, statusCode (.configError (.overlap l h rs)) = 0x10) ∧
  (∀ c i b d, statusCode (.configError (.dupLine c i b d)) = 0x11) ∧
  (∀ l h, statusCode (.configError (.badRange l h)) = 0x12) ∧
  (∀ sl, statusCode (.configError (.unknownSlave sl)) = 0x12) ∧
  (∀ sl, statusCode (.configError (.notBank sl)) = 0x12) ∧
  (∀ sl o, statusCode (.configError (.misalignedOffset sl o)) = 0x12) ∧
  (∀ sl o, statusCode (.configError (.duplicateOffset sl o)) = 0x12) ∧
  (∀ c i, statusCode (.configError (.lineOutOfRange c i)) = 0x12) ∧
  statusCode (.refused .phase) = 0x20 ∧ statusCode (.refused .encoding) = 0x21 ∧
  statusCode (.refused .line) = 0x22 ∧ statusCode (.refused .device) = 0x23 ∧
  (∀ v, responseData (.ok (.byte v)) = v.setWidth 64) ∧ (∀ v, responseData (.ok (.half v)) = v.setWidth 64) ∧
  (∀ v, responseData (.ok (.word v)) = v.setWidth 64) ∧ (∀ v, responseData (.ok (.dword v)) = v) ∧
  responseData (.ok (.flag false)) = 0 ∧ responseData (.ok (.flag true)) = 1 ∧ responseData (.ok .none) = 0 ∧
  ∀ r, statusCode r ≠ 0x00 → responseData r = 0

/-- Words written out from the rows of 30_encoding.md R74, one of each class and each operand shape. -/
def Obligations.WordsDecode : Prop :=
  decodeTableWord 152 0x102000200 = some (.read8 2 0x102) ∧
  decodeTableWord 152 0xBEEF0000000000000104000011 = some (.write16 0 0x104 0xBEEF) ∧
  decodeTableWord 152 0x101002042 = some (.canread 0x20 0x101 4) ∧
  decodeTableWord 152 0x61 = some .fiqQ ∧
  decodeTableWord 152 0x10000000000000004000981 = some (.setLinePri 9 4 true) ∧
  decodeTableWord 152 0x488 = some (.tick 4) ∧
  decodeTableWord 152 0x1002000000000100000000001C0 = some (.addSlave 1 0x10000000 0x10020) ∧
  decodeTableWord 152 0xC9 = some .haltAll ∧
  decodeTableWord 152 0x08 = none

/-! ### Steps, responses and faults -/

/-- A step takes the next presented request and performs exactly the operation it decodes to; with none presented the state
stays. The list of requests is the model's own (log 1). -/
def Obligations.StepRunsDecoded : Prop :=
  (∀ (s : State) (q : Request) (rest : List Request) (i : Instr), s.pending = q :: rest → decodeRecord q = .ok i →
    step s = exec i { s with pending := rest }) ∧
  ∀ s : State, s.pending = [] → step s = .next s

/-- Every operation completes with exactly one response, in every state; no operation changes the board or the requests that
wait (30_encoding.md R75; 70_reset_and_hazards.md R273). -/
def Obligations.EveryOperationResponds : Prop :=
  ∀ (i : Instr) (s : State), ∃ t r, exec i s = .next t ∧ t.response = some r ∧ t.pending = s.pending ∧ t.cfg = s.cfg ∧
    (statusCode r ≠ 0x00 → responseData r = 0)

/-- Decode finds the one range that contains the address (42_bus.md R133). -/
def Obligations.DecodeFindsRange : Prop :=
  ∀ (s : State) (addr : DWord) (r : Range), RangesDisjoint s →
    (decodeAddr s.ranges addr = some r ↔ r ∈ s.ranges ∧ r.low ≤ addr ∧ addr < r.high) ∧
    (decodeAddr s.ranges addr = none ↔ ∀ q ∈ s.ranges, ¬ (q.low ≤ addr ∧ addr < q.high)) ∧
    (decodeAddr s.ranges addr = some r → localOffset r addr = (addr - r.low).toNat ∧ localOffset r addr < rangeSize r)

/-- An access whose first byte lies in no range faults `Unmapped` and changes nothing (42_bus.md R134). -/
def Obligations.UnmappedAccessFaults : Prop :=
  ∀ (i : Instr) (s : State) (a : Access), accessOf i = some a → s.phase ≠ .failed →
    (∀ r ∈ s.ranges, ¬ (r.low ≤ a.addr ∧ a.addr < r.high)) → FaultsWith i s a .unmapped

/-- An access past the end of its range, and an aligned variant at a misaligned local offset, fault `UnsupportedAccess` and
change nothing (20_memory.md R47, R49). -/
def Obligations.RangeEndAndAlignmentFault : Prop :=
  ∀ (i : Instr) (s : State) (a : Access) (r : Range), accessOf i = some a → s.phase ≠ .failed → Mapped s a.addr r →
    rangeSize r < localOffset r a.addr + a.len ∨ (a.unaligned = false ∧ localOffset r a.addr % a.len ≠ 0) →
    FaultsWith i s a .unsupportedAccess

/-- For an access in its range and aligned where it must be, the capability of the slave decides: true, and the access is the
slave's own read or write; false, and it faults `UnsupportedAccess` (40_slave_core.md R93; 42_bus.md R140, R141). Every kind
of slave, `Other` included. At a misaligned offset the capability is the conjunction of the byte capabilities (R92). Of an
`Other` slave the aligned capability is its own function (R91), the aligned access is its own function of the state, and its
effect is confined to the slave (R94, R95, R103); the functions see the master only where the slave has a `SUPPORTS_M`
(20_memory.md R42). How `SUPPORTS_M` enters the capability is the model's choice (log 6), and so are the slave's other state
and the lines a function may name (logs 5, 20). -/
def Obligations.CapabilityDecidesAccess : Prop :=
  ∀ (i : Instr) (s : State) (a : Access) (r : Range), accessOf i = some a → InRange s a.addr a.len r →
    let off := localOffset r a.addr
    let seen := if r.slave ∈ s.cfg.masterFilter then a.master else 0
    (off % a.len ≠ 0 → (canAccess s r.slave a.master off a.len a.dir = true ↔
      ∀ k < a.len, canAccess s r.slave a.master (off + k) 1 a.dir = true)) ∧
    (kindOf s.cfg r.slave = some .other → off % a.len = 0 →
      (canAccess s r.slave a.master off a.len a.dir = true ↔
        Config.supportsOther r.slave seen off a.len a.dir = true ∧
          (r.slave ∈ s.cfg.masterFilter → Config.supportsMaster r.slave a.master off a.len = true)) ∧
      (canAccess s r.slave a.master off a.len a.dir = true →
        (a.dir = .read → exec i s = .next
          { applyEffect r.slave (Config.readOther r.slave seen off a.len (stateView s r.slave)).2 s with
            response := some (.ok (typedValue a.len
              (Config.readOther r.slave seen off a.len (stateView s r.slave)).1)) }) ∧
        (a.dir = .write → exec i s = .next
          { applyEffect r.slave (Config.writeOther r.slave seen off a.len (writeValue i) (stateView s r.slave)) s with
            response := some (.ok .none) }))) ∧
    (
a.unaligned = true ∨ off % a.len = 0 →
      (canAccess s r.slave a.master off a.len a.dir = false → FaultsWith i s a .unsupportedAccess) ∧
      (canAccess s r.slave a.master off a.len a.dir = true →
        (a.dir = .read → exec i s = .next
          { (slaveReadU r.slave a.master off a.len s).2 with
            response := some (.ok (typedValue a.len (slaveReadU r.slave a.master off a.len s).1)) }) ∧
        (a.dir = .write → exec i s = .next
          { slaveWriteU r.slave a.master off a.len (writeValue i) s with response := some (.ok .none) })))

/-- An operation that ends in a bus fault is a data access, its fault record holds that access's operands, and no state has
changed (60_exceptions.md R236, R231). -/
def Obligations.BusFaultsArePrecise : Prop :=
  ∀ (i : Instr) (s t : State) (kind : BusFaultKind) (addr : DWord) (len : Nat) (dir : Dir) (m : Ident),
    exec i s = .next t → t.response = some (.busFault kind addr len dir m) →
    (∃ u, accessOf i = some ⟨m, addr, len, u, dir⟩) ∧ { t with response := s.response } = s

/-- A refused operation changes no state, `phase` included (60_exceptions.md R234). The frame leaves out the model's own mark
`sawRefusal` (log 3). -/
def Obligations.RefusalsChangeNothing : Prop :=
  ∀ (i : Instr) (s t : State) (why : RefuseReason), exec i s = .next t → t.response = some (.refused why) →
    { t with response := s.response, sawRefusal := s.sawRefusal } = s

/-- A configuration error happens in `CONFIG` only, changes nothing but `phase <- FAILED`, and every later operation is refused
with `REFUSED_PHASE` (60_exceptions.md R233). -/
def Obligations.ConfigErrorsOnlyFail : Prop :=
  ∀ (i : Instr) (s t : State) (kind : ConfigErrorKind), exec i s = .next t → t.response = some (.configError kind) →
    s.phase = .config ∧ t.phase = .failed ∧ { t with phase := s.phase, response := s.response } = s ∧
    ∀ j, RefusedWith j t .phase

/-- In `FAILED` every operation of every agent is refused, and the state of the fabric stays; the mark `sawRefusal` is the
model's own (log 3; 60_exceptions.md R246; 93_implementation_defined.md U20). -/
def Obligations.FailedRefusesEverything : Prop :=
  ∀ (i : Instr) (s : State), s.phase = .failed →
    exec i s = .next { s with response := some (.refused .phase), sawRefusal := true }

/-- The phase is the only gate: an operation is refused for its phase exactly where the table of 60_exceptions.md R246 says
so, and `TICK` outside `RUN` is refused because no device runs. -/
def Obligations.PhaseGate : Prop :=
  ∀ (i : Instr) (s : State), ∃ t, exec i s = .next t ∧
    (t.response = some (.refused .phase) ↔ phaseRefuses i s.phase = true) ∧
    (LifecycleOk s → s.phase = .config ∨ s.phase = .halted → ∀ d, i = .tick d → t.response = some (.refused .device))

/-- The master identity changes no result, unless a bound slave has a `SUPPORTS_M` (20_memory.md R42; 60_exceptions.md
R246). Every kind of slave, `Other` included. -/
def Obligations.MasterChangesNoResult : Prop :=
  ∀ (i : Instr) (s : State) (m : Ident),
    (∀ r ∈ s.ranges, r.slave ∉ s.cfg.masterFilter) →
    ∃ t u, exec i s = .next t ∧ exec (withMaster m i) s = .next u ∧
      { t with response := none } = { u with response := none } ∧
      t.response.map responseRecord = u.response.map responseRecord

/-! ### RAM -/

/-- The seven `READ*` on a RAM: the value's bytes are the bytes at the offsets, lowest address least significant, and nothing
changes; past the end of the array the access faults (40_slave_core.md R100). -/
def Obligations.RamReads : Prop :=
  ∀ (i : Instr) (s : State) (a : Access) (r : Range) (size : Nat), accessOf i = some a → a.dir = .read →
    InRange s a.addr a.len r → PlainSlave s r.slave (.ram size) →
    (a.unaligned = true ∨ localOffset r a.addr % a.len = 0) →
    (localOffset r a.addr + a.len ≤ size →
      ∃ v, Answers i s (typedValue a.len v) ∧ ∀ k < a.len, byteOf v k = ramByte s r.slave (localOffset r a.addr + k)) ∧
    (size < localOffset r a.addr + a.len → FaultsWith i s a .unsupportedAccess)

/-- The seven `WRITE*` on a RAM: the bytes at the offsets become the value's bytes, every other byte of every RAM and every
other state stays (40_slave_core.md R101). -/
def Obligations.RamWrites : Prop :=
  ∀ (i : Instr) (s : State) (a : Access) (r : Range) (size : Nat), accessOf i = some a → a.dir = .write →
    InRange s a.addr a.len r → PlainSlave s r.slave (.ram size) →
    (a.unaligned = true ∨ localOffset r a.addr % a.len = 0) →
    (localOffset r a.addr + a.len ≤ size →
      ∃ t, exec i s = .next t ∧ t.response = some (.ok .none) ∧ { t with ram := s.ram, response := s.response } = s ∧
        ∀ (sl : Ident) (o : Nat), o < 2 ^ 64 →
          ramByte t sl o =
            if sl = r.slave ∧ localOffset r a.addr ≤ o ∧ o < localOffset r a.addr + a.len then
              byteOf (writeValue i) (o - localOffset r a.addr)
            else ramByte s sl o) ∧
    (size < localOffset r a.addr + a.len → FaultsWith i s a .unsupportedAccess)

/-- An unaligned variant at a misaligned offset is the composition of single-byte accesses in ascending order, least
significant byte first, with the same effects, on every kind of slave (40_slave_core.md R96, R97; 20_memory.md R48). -/
def Obligations.UnalignedIsBytewise : Prop :=
  ∀ (i : Instr) (s : State) (a : Access) (r : Range), accessOf i = some a → a.unaligned = true → RangesDisjoint s →
    InRange s a.addr a.len r → localOffset r a.addr % a.len ≠ 0 →
    canAccess s r.slave a.master (localOffset r a.addr) a.len a.dir = true →
    (a.dir = .read →
      ∃ t u v, exec i s = .next t ∧ t.response = some (.ok (typedValue a.len v)) ∧
        runOps ((List.range a.len).map fun k => .read8 a.master (a.addr + BitVec.ofNat 64 k)) s = some u ∧
        responsesOf ((List.range a.len).map fun k => .read8 a.master (a.addr + BitVec.ofNat 64 k)) s =
          (List.range a.len).map (fun k => some (.ok (.byte (byteOf v k)))) ∧
        { t with response := none } = { u with response := none }) ∧
    (a.dir = .write →
      ∃ t u, exec i s = .next t ∧ t.response = some (.ok .none) ∧
        runOps ((List.range a.len).map fun k =>
          .write8 a.master (a.addr + BitVec.ofNat 64 k) (byteOf (writeValue i) k)) s = some u ∧
        responsesOf ((List.range a.len).map fun k =>
          .write8 a.master (a.addr + BitVec.ofNat 64 k) (byteOf (writeValue i) k)) s =
          (List.range a.len).map (fun _ => some (.ok .none)) ∧
        { t with response := none } = { u with response := none })

/-- An unaligned variant at an offset that is a multiple of its length is the aligned variant, exactly (20_memory.md R48). -/
def Obligations.AlignedVariantsAgree : Prop :=
  ∀ (s : State) (m : Ident) (addr : DWord),
    ((∀ r, Mapped s addr r → localOffset r addr % 2 = 0) →
      exec (.read16u m addr) s = exec (.read16 m addr) s ∧
      ∀ v, exec (.write16u m addr v) s = exec (.write16 m addr v) s) ∧
    ((∀ r, Mapped s addr r → localOffset r addr % 4 = 0) →
      exec (.read32u m addr) s = exec (.read32 m addr) s ∧
      ∀ v, exec (.write32u m addr v) s = exec (.write32 m addr v) s) ∧
    ((∀ r, Mapped s addr r → localOffset r addr % 8 = 0) →
      exec (.read64u m addr) s = exec (.read64 m addr) s ∧
      ∀ v, exec (.write64u m addr v) s = exec (.write64 m addr v) s)

/-! ### Probes -/

/-- `CANREAD`: the answer, nothing changed, and the agreement with the read of the same length (42_bus.md R158). -/
def Obligations.CanreadAnswers : Prop :=
  ∀ (s : State) (m : Ident) (addr : DWord) (len : Nat), isAccessLen len = true →
    (s.phase = .failed → RefusedWith (.canread m addr len) s .phase) ∧
    (s.phase ≠ .failed → ∃ b, Answers (.canread m addr len) s (.flag b) ∧
      (b = true ↔ ∃ r, Mapped s addr r ∧ localOffset r addr + len ≤ rangeSize r ∧
        canAccess s r.slave m (localOffset r addr) len .read = true) ∧
      ∀ (i : Instr) (u : Bool), accessOf i = some ⟨m, addr, len, u, .read⟩ →
        ((∃ t d, exec i s = .next t ∧ t.response = some (.ok d)) ↔
          b = true ∧ (u = true ∨ ∀ r, Mapped s addr r → localOffset r addr % len = 0)))

/-- `CANWRITE`: as `CANREAD` with direction W; on every kind but `Other` the two agree at every address, with a `SUPPORTS_M`
or without (42_bus.md R159). That a generic bank decodes in both directions where it does in one is a condition on the board,
`Cfg.banksOk` (log 21), with its registers added. -/
def Obligations.CanwriteAnswers : Prop :=
  ∀ (s : State) (m : Ident) (addr : DWord) (len : Nat), isAccessLen len = true →
    (s.phase = .failed → RefusedWith (.canwrite m addr len) s .phase) ∧
    (s.phase ≠ .failed → ∃ b, Answers (.canwrite m addr len) s (.flag b) ∧
      (b = true ↔ ∃ r, Mapped s addr r ∧ localOffset r addr + len ≤ rangeSize r ∧
        canAccess s r.slave m (localOffset r addr) len .write = true) ∧
      (∀ (i : Instr) (u : Bool), accessOf i = some ⟨m, addr, len, u, .write⟩ →
        ((∃ t d, exec i s = .next t ∧ t.response = some (.ok d)) ↔
          b = true ∧ (u = true ∨ ∀ r, Mapped s addr r → localOffset r addr % len = 0))) ∧
      (BanksComplete s → s.cfg.banksOk = true → RegistersAdded s →
        (∀ r, Mapped s addr r → ∃ k, kindOf s.cfg r.slave = some k ∧ k ≠ .other) →
        Answers (.canread m addr len) s (.flag b)))

/-- A probe of a length that no access has answers false. The record cannot encode such a probe; the answer is the model's
choice (log 10; 30_encoding.md R72). -/
def Obligations.OddProbeAnswersFalse : Prop :=
  ∀ (s : State) (m : Ident) (addr : DWord) (len : Nat), isAccessLen len = false → s.phase ≠ .failed →
    Answers (.canread m addr len) s (.flag false) ∧ Answers (.canwrite m addr len) s (.flag false)

/-! ### Register banks -/

/-- The class of an offset in each direction is the first of the table of 41_register_bank.md R111 that applies, with the
reserved offsets of R117 and the default handlers of R118; and a 32-bit read of a register bank, by the class of its offset
(R112). A generic bank's override is its own function, confined to the bank (R113); what it may name is the model's choice
(logs 5, 20). A bank with a `SUPPORTS_M` is included where that admits the access (log 6). -/
def Obligations.BankWordReads : Prop :=
  ∀ (i : Instr) (s : State) (m : Ident) (addr : DWord) (u : Bool) (r : Range) (k : SlaveKind),
    accessOf i = some ⟨m, addr, 4, u, .read⟩ → InRange s addr 4 r →
    AdmittedSlave s r.slave k m (localOffset r addr) 4 → isBankKind k = true → localOffset r addr % 4 = 0 →
    (∀ dir, ClassTable s r.slave k (localOffset r addr) dir) ∧
    (bankClass s r.slave k (localOffset r addr) .read = .override → exec i s = .next
      { (readOverride r.slave k (localOffset r addr) s).2 with
        response := some (.ok (.word (readOverride r.slave k (localOffset r addr) s).1)) }) ∧
    (∀ b, k = .bank b → bankClass s r.slave k (localOffset r addr) .read = .override → exec i s = .next
      { applyEffect r.slave (Config.readOverride r.slave (localOffset r addr) (devView s r.slave)).2 s with
        response := some (.ok (.word
          (Config.readOverride r.slave (localOffset r addr) (devView s r.slave)).1)) }) ∧
    (bankClass s r.slave k (localOffset r addr) .read = .cell → ∃ cell,
      mapGet s.bank (cellKey r.slave (localOffset r addr)) = some cell ∧ Answers i s (.word cell.currentValue)) ∧
    (bankClass s r.slave k (localOffset r addr) .read = .reserved → Answers i s (.word 0)) ∧
    (∀ b, k = .bank b → bankClass s r.slave k (localOffset r addr) .read = .dflt →
      (b.dflt = .zero → Answers i s (.word 0)) ∧
      (∀ w, b.dflt = .const w → Answers i s (.word w)) ∧
      (b.dflt = .fn → exec i s = .next
        { applyEffect r.slave (Config.readDefault r.slave (localOffset r addr) (stateView s r.slave)).2 s with
          response := some (.ok (.word
            (Config.readDefault r.slave (localOffset r addr) (stateView s r.slave)).1)) })) ∧
    (bankClass s r.slave k (localOffset r addr) .read = .undecoded →
      FaultsWith i s ⟨m, addr, 4, u, .read⟩ .unsupportedAccess)

/-- A 32-bit write to a register bank, by the class of its offset, the class by the table of 41_register_bank.md R111; a plain
cell gets all 32 bits and nothing else changes (R114). A generic bank's override is its own function, confined to the bank
(R115); what it may name is the model's choice (logs 5, 20). A bank with a `SUPPORTS_M` is included where that admits the
access (log 6). -/
def Obligations.BankWordWrites : Prop :=
  ∀ (i : Instr) (s : State) (m : Ident) (addr : DWord) (u : Bool) (r : Range) (k : SlaveKind),
    accessOf i = some ⟨m, addr, 4, u, .write⟩ → InRange s addr 4 r →
    AdmittedSlave s r.slave k m (localOffset r addr) 4 → isBankKind k = true → localOffset r addr % 4 = 0 →
    ClassTable s r.slave k (localOffset r addr) .write ∧
    (bankClass s r.slave k (localOffset r addr) .write = .override → exec i s = .next
      { writeOverride r.slave k (localOffset r addr) (lowWord (writeValue i)) s with
        response := some (.ok .none) }) ∧
    (∀ b, k = .bank b → bankClass s r.slave k (localOffset r addr) .write = .override → exec i s = .next
      { applyEffect r.slave (Config.writeOverride r.slave (localOffset r addr) (lowWord (writeValue i))
          (devView s r.slave)) s with response := some (.ok .none) }) ∧
    (bankClass s r.slave k (localOffset r addr) .write = .cell → ∃ t cell,
      exec i s = .next t ∧ t.response = some (.ok .none) ∧ { t with bank := s.bank, response := s.response } = s ∧
      mapGet s.bank (cellKey r.slave (localOffset r addr)) = some cell ∧
      mapGet t.bank (cellKey r.slave (localOffset r addr)) =
        some ⟨cell.name, cell.resetValue, lowWord (writeValue i)⟩ ∧
      ∀ key, key ≠ cellKey r.slave (localOffset r addr) → mapGet t.bank key = mapGet s.bank key) ∧
    (bankClass s r.slave k (localOffset r addr) .write = .reserved → Answers i s .none) ∧
    (∀ b, k = .bank b → bankClass s r.slave k (localOffset r addr) .write = .dflt →
      (b.dflt = .zero → Answers i s .none) ∧
      (∀ w, b.dflt = .const w → Answers i s .none) ∧
      (b.dflt = .fn → exec i s = .next
        { applyEffect r.slave (Config.writeDefault r.slave (localOffset r addr) (lowWord (writeValue i))
            (stateView s r.slave)) s with response := some (.ok .none) })) ∧
    (bankClass s r.slave k (localOffset r addr) .write = .undecoded →
      FaultsWith i s ⟨m, addr, 4, u, .write⟩ .unsupportedAccess)

/-- Write a word, then read it (41_register_bank.md R120): a plain cell gives it back; `TMR_FLAG` gives it with bit 0 set; an
ENABLE register gives the bits of its lines; `TMR_STAT` gives `old & ~v & 1`. -/
def Obligations.BankRoundTrip : Prop :=
  ∀ (s : State) (m : Ident) (addr : DWord) (v : Word) (r : Range) (k : SlaveKind),
    InRange s addr 4 r → PlainSlave s r.slave k → isBankKind k = true → localOffset r addr % 4 = 0 →
    ∀ back : Word,
    (bankClass s r.slave k (localOffset r addr) .read = .cell ∧
        bankClass s r.slave k (localOffset r addr) .write = .cell ∧ back = v) ∨
      (hasCell s r.slave (localOffset r addr) = true ∧
        ((k = .tmr ∧ localOffset r addr = 0x14 ∧ back = v ||| 1) ∨
          (k = .sec ∧ localOffset r addr = 0x04 ∧ back = v &&& lineMask s.cfg.nSec) ∨
          (k = .pri ∧ localOffset r addr = 0x04 ∧ back = v &&& lineMask s.cfg.nPri) ∨
          (k = .tmr ∧ localOffset r addr = 0x0C ∧ back = cellValue s r.slave 0x0C &&& ~~~v &&& 1))) →
    ∃ t, exec (.write32 m addr v) s = .next t ∧ t.response = some (.ok .none) ∧ Answers (.read32 m addr) t (.word back)

/-- What the read-only registers of SEC and PRI and the forced-bit register of TMR read as, bit by bit, and that the read
changes nothing (41_register_bank.md R113; 10_state.md R21 to R23). -/
def Obligations.FixedRegisterReads : Prop :=
  ∀ (i : Instr) (s : State) (m : Ident) (addr : DWord) (u : Bool) (r : Range) (k : SlaveKind),
    accessOf i = some ⟨m, addr, 4, u, .read⟩ → InRange s addr 4 r → PlainSlave s r.slave k →
    (k = .sec → localOffset r addr = 0x00 → ∃ v, Answers i s (.word v) ∧
      ∀ j < 32, v.getLsbD j = (decide (j < s.cfg.nSec) && s.sec.raw.getLsbD j)) ∧
    (k = .sec → localOffset r addr = 0x08 → ∃ v, Answers i s (.word v) ∧
      ∀ j < 32, v.getLsbD j =
        (decide (j < s.cfg.nSec) && s.sec.raw.getLsbD j && (enableOf s .sec).getLsbD j)) ∧
    (k = .pri → localOffset r addr = 0x00 → ∃ v, Answers i s (.word v) ∧
      ∀ j < 32, v.getLsbD j = (decide (j < s.cfg.nPri) &&
        (if s.cfg.cascade = some j then secAggr s else s.pri.raw.getLsbD j))) ∧
    (k = .pri → localOffset r addr = 0x08 → ∃ v, Answers i s (.word v) ∧
      ∀ j < 32, v.getLsbD j = (decide (j < s.cfg.nPri) &&
        (if s.cfg.cascade = some j then secAggr s else s.pri.raw.getLsbD j) && (enableOf s .pri).getLsbD j)) ∧
    (k = .pri → localOffset r addr = 0x0C → ∃ v, Answers i s (.word v) ∧
      ∀ j < 32, v.getLsbD j = (decide (j < s.cfg.nPri) && s.cfg.fiqsel.getLsbD j)) ∧
    (k = .pri → localOffset r addr = 0x10 → ∃ v, Answers i s (.word v) ∧
      ∀ j < 32, v.getLsbD j = if j = 0 then irq s else if j = 1 then fiq s else false) ∧
    (k = .tmr → localOffset r addr = 0x14 → Answers i s (.word (cellValue s r.slave 0x14 ||| 1)))

/-- A 32-bit write to a read-only register of SEC or PRI is accepted and dropped (41_register_bank.md R115; 10_state.md R21,
R22). -/
def Obligations.ReadOnlyWritesDropped : Prop :=
  ∀ (i : Instr) (s : State) (m : Ident) (addr : DWord) (u : Bool) (r : Range) (k : SlaveKind),
    accessOf i = some ⟨m, addr, 4, u, .write⟩ → InRange s addr 4 r → PlainSlave s r.slave k →
    (k = .sec ∧ (localOffset r addr = 0x00 ∨ localOffset r addr = 0x08)) ∨
      (k = .pri ∧ (localOffset r addr = 0x00 ∨ localOffset r addr = 0x08 ∨ localOffset r addr = 0x0C ∨
        localOffset r addr = 0x10)) →
    Answers i s .none

/-- A 32-bit write to the ENABLE register of a controller replaces its mask by `v & LM(N_c)` and changes nothing else stored;
and only such a write changes an enable bit (43_interrupt_fabric.md R178). -/
def Obligations.EnableMaskWrites : Prop :=
  (∀ (i : Instr) (s : State) (m : Ident) (addr : DWord) (u : Bool) (r : Range) (ctl : Ctrl),
    accessOf i = some ⟨m, addr, 4, u, .write⟩ → InRange s addr 4 r → r.slave = controllerId s.cfg ctl →
    PlainSlave s r.slave (ctrlKind ctl) → localOffset r addr = 0x04 →
    hasCell s r.slave 0x04 = true →
    ∃ t, exec i s = .next t ∧ t.response = some (.ok .none) ∧ { t with bank := s.bank, response := s.response } = s ∧
      enableOf t ctl = lowWord (writeValue i) &&& lineMask (lineCount s.cfg ctl) ∧
      ∀ key, key ≠ cellKey r.slave 0x04 → mapGet t.bank key = mapGet s.bank key) ∧
  ∀ (i : Instr) (s t : State) (ctl : Ctrl), exec i s = .next t → enableOf t ctl ≠ enableOf s ctl →
    ∃ m addr u r, accessOf i = some ⟨m, addr, 4, u, .write⟩ ∧ Mapped s addr r ∧ r.slave = controllerId s.cfg ctl ∧
      localOffset r addr = 0x04

/-- 8- and 16-bit accesses to a register bank and misaligned unaligned variants fault (41_register_bank.md R119). -/
def Obligations.SubwordBankAccessFaults : Prop :=
  ∀ (i : Instr) (s : State) (a : Access) (r : Range) (k : SlaveKind), accessOf i = some a → s.phase ≠ .failed →
    Mapped s a.addr r → kindOf s.cfg r.slave = some k → isBankKind k = true →
    a.len = 1 ∨ a.len = 2 ∨ (a.unaligned = true ∧ localOffset r a.addr % a.len ≠ 0) →
    FaultsWith i s a .unsupportedAccess

/-- A 64-bit access to a register bank: legal exactly where the whitelist admits the offset (never for SEC and PRI, only 0x00
for TMR: 10_state.md R21 to R23) and both words decode; the low word first, each word by its own class
(41_register_bank.md R116). -/
def Obligations.BankDoubleWords : Prop :=
  ∀ (i : Instr) (s : State) (m : Ident) (addr : DWord) (u : Bool) (dir : Dir) (r : Range) (k : SlaveKind) (off : Nat),
    accessOf i = some ⟨m, addr, 8, u, dir⟩ → InRange s addr 8 r → PlainSlave s r.slave k → isBankKind k = true →
    off = localOffset r addr → off % 8 = 0 →
    (∀ o, o % 4 = 0 → ClassTable s r.slave k o dir) ∧
    (admits64 k off ∧ bankClass s r.slave k off dir ≠ .undecoded ∧ bankClass s r.slave k (off + 4) dir ≠ .undecoded →
      (dir = .read →
        let lo := bankReadWord r.slave k off s
        let hi := bankReadWord r.slave k (off + 4) lo.2
        exec i s = .next { hi.2 with response := some (.ok (.dword (hi.1 ++ lo.1))) }) ∧
      (dir = .write → exec i s = .next
        { bankWriteWord r.slave k (off + 4) ((writeValue i).extractLsb' 32 32)
            (bankWriteWord r.slave k off ((writeValue i).extractLsb' 0 32) s) with
          response := some (.ok .none) })) ∧
    (¬ (admits64 k off ∧ bankClass s r.slave k off dir ≠ .undecoded ∧
        bankClass s r.slave k (off + 4) dir ≠ .undecoded) →
      FaultsWith i s ⟨m, addr, 8, u, dir⟩ .unsupportedAccess)

/-- Reads of RAM, SEC, PRI and TMR, probes and queries change no state (20_memory.md R52). -/
def Obligations.ReadsHaveNoSideEffect : Prop :=
  ∀ (i : Instr) (s t : State), s.phase ≠ .failed → exec i s = .next t →
    (∃ a, accessOf i = some a ∧ a.dir = .read ∧
        ∀ r, Mapped s a.addr r → ∃ k, kindOf s.cfg r.slave = some k ∧
          (k = .sec ∨ k = .pri ∨ k = .tmr ∨ ∃ size, k = .ram size)) ∨
      (∃ m addr len, i = .canread m addr len ∨ i = .canwrite m addr len) ∨ i = .irqQ ∨ i = .fiqQ →
    { t with response := s.response } = s

/-- A device's cells, bytes, other state and lines change only by the device's own functions, by `ADD_REGISTER` of that device,
or by `SET_LINE_*` in its name (44_device_threads.md R201; 60_exceptions.md R237; 41_register_bank.md R113). -/
def Obligations.DeviceIsolation : Prop :=
  ∀ (i : Instr) (s t : State) (d : Ident), exec i s = .next t → ¬ actsOn s i d →
    (∀ off < 2 ^ 32, mapGet t.bank (cellKey d off) = mapGet s.bank (cellKey d off) ∨
      (s.phase = .config ∧ mapGet s.bank (cellKey d off) = none ∧ ∃ o rv, i = .addRegister d o rv ∧ o.toNat = off)) ∧
    (∀ off < 2 ^ 64, ramByte t d off = ramByte s d off) ∧
    devOther t d = devOther s d ∧
    ∀ ctl id, drives s d ctl id = true →
      (controller t ctl).raw.getLsbD id = (controller s ctl).raw.getLsbD id ∨
        ∃ (n : DWord) (b : Bool), n.toNat = id ∧ i = setLineOp ctl d n b

/-! ### Interrupts -/

/-- `IRQ_Q` and `FIQ_Q` answer the OR-reduction of all enabled, asserted lines of their class, the cascade line live, and
change nothing (43_interrupt_fabric.md R180, R181, R183). -/
def Obligations.QueriesReportOutputs : Prop :=
  ∀ s : State, s.cfg.lineCountsOk = true →
    (s.phase = .failed → RefusedWith .irqQ s .phase ∧ RefusedWith .fiqQ s .phase) ∧
    (s.phase ≠ .failed → ∃ bi bf, Answers .irqQ s (.flag bi) ∧ Answers .fiqQ s (.flag bf) ∧
      (bi = true ↔ ∃ j < s.cfg.nPri, (enableOf s .pri).getLsbD j = true ∧ s.cfg.fiqsel.getLsbD j = false ∧
        (if s.cfg.cascade = some j then
          ∃ n < s.cfg.nSec, s.sec.raw.getLsbD n = true ∧ (enableOf s .sec).getLsbD n = true
        else s.pri.raw.getLsbD j = true)) ∧
      (bf = true ↔ ∃ j < s.cfg.nPri, (enableOf s .pri).getLsbD j = true ∧ s.cfg.fiqsel.getLsbD j = true ∧
        (if s.cfg.cascade = some j then
          ∃ n < s.cfg.nSec, s.sec.raw.getLsbD n = true ∧ (enableOf s .sec).getLsbD n = true
        else s.pri.raw.getLsbD j = true)))

/-- The secondary's aggregate is the OR over `raw & enable`; an unconnected line has raw bit 0 in every state that meets the
wiring invariant, and no operation sets the raw bit of an unconnected line (43_interrupt_fabric.md R176). -/
def Obligations.SecondaryAggregate : Prop :=
  ∀ s : State, s.cfg.lineCountsOk = true →
    (secAggr s = true ↔ ∃ j < s.cfg.nSec, s.sec.raw.getLsbD j = true ∧ (enableOf s .sec).getLsbD j = true) ∧
    (LinesWired s → ∀ j, lineDriver s .sec j = none → s.sec.raw.getLsbD j = false) ∧
    ∀ (i : Instr) (t : State), exec i s = .next t → ∀ j, lineDriver s .sec j = none → s.sec.raw.getLsbD j = false →
      t.sec.raw.getLsbD j = false

/-- `SET_LINE_SEC` (43_interrupt_fabric.md R172): refused in `FAILED`, refused where the device does not drive the line; else
one raw bit of the secondary takes the value and nothing else changes. -/
def Obligations.SetLineSecEffect : Prop :=
  ∀ (s : State) (d : Ident) (id : DWord) (b : Bool), s.cfg.lineCountsOk = true →
    (s.phase = .failed → RefusedWith (.setLineSec d id b) s .phase) ∧
    (s.phase ≠ .failed → ¬ (id.toNat < s.cfg.nSec ∧ lineDriver s .sec id.toNat = some (.dev d)) →
      RefusedWith (.setLineSec d id b) s .line) ∧
    (s.phase ≠ .failed → id.toNat < s.cfg.nSec → lineDriver s .sec id.toNat = some (.dev d) →
      ∃ t, exec (.setLineSec d id b) s = .next t ∧ t.response = some (.ok .none) ∧
        { t with sec := ⟨s.sec.raw, t.sec.conn⟩, response := s.response } = s ∧
        ∀ j < 32, t.sec.raw.getLsbD j = if j = id.toNat then b else s.sec.raw.getLsbD j)

/-- `SET_LINE_PRI` (43_interrupt_fabric.md R173): as the secondary's, and always refused on the cascade line. -/
def Obligations.SetLinePriEffect : Prop :=
  ∀ (s : State) (d : Ident) (id : DWord) (b : Bool), s.cfg.lineCountsOk = true →
    (s.phase = .failed → RefusedWith (.setLinePri d id b) s .phase) ∧
    (s.phase ≠ .failed →
      s.cfg.cascade = some id.toNat ∨ ¬ (id.toNat < s.cfg.nPri ∧ lineDriver s .pri id.toNat = some (.dev d)) →
      RefusedWith (.setLinePri d id b) s .line) ∧
    (s.phase ≠ .failed → s.cfg.cascade ≠ some id.toNat → id.toNat < s.cfg.nPri →
      lineDriver s .pri id.toNat = some (.dev d) →
      ∃ t, exec (.setLinePri d id b) s = .next t ∧ t.response = some (.ok .none) ∧
        { t with pri := ⟨s.pri.raw, t.pri.conn⟩, response := s.response } = s ∧
        ∀ j < 32, t.pri.raw.getLsbD j = if j = id.toNat then b else s.pri.raw.getLsbD j)

/-- The line state machine: what `set_line` and an ENABLE write do to the state of a line (43_interrupt_fabric.md R179). -/
def Obligations.LineStateTransitions : Prop :=
  (∀ (s t : State) (ctl : Ctrl) (d : Ident) (id : DWord) (b : Bool), s.cfg.lineCountsOk = true →
    exec (setLineOp ctl d id b) s = .next t → t.response = some (.ok .none) →
    ∀ j < lineCount s.cfg ctl, isCascade s.cfg ctl j = false →
      lineState t ctl j =
        if j ≠ id.toNat then lineState s ctl j
        else if lineState s ctl j = .disabled then .disabled
        else if b then .enabledAsserted else .enabledClear) ∧
  ∀ (i : Instr) (s : State) (m : Ident) (addr : DWord) (u : Bool) (r : Range) (ctl : Ctrl),
    s.cfg.lineCountsOk = true → accessOf i = some ⟨m, addr, 4, u, .write⟩ → InRange s addr 4 r →
    r.slave = controllerId s.cfg ctl → PlainSlave s r.slave (ctrlKind ctl) →
    localOffset r addr = 0x04 → hasCell s r.slave 0x04 = true →
    ∃ t, exec i s = .next t ∧ t.response = some (.ok .none) ∧
      ∀ j < lineCount s.cfg ctl, isCascade s.cfg ctl j = false →
        lineState t ctl j =
          if (writeValue i).getLsbD j then (if lineRaw s ctl j then .enabledAsserted else .enabledClear)
          else .disabled

/-- The auxiliary winners: a winner exists exactly when its output is true, it is an enabled and asserted line of its class,
and under the default policy it is the smallest (43_interrupt_fabric.md R184). -/
def Obligations.WinnersAgreeWithOutputs : Prop :=
  ∀ s : State,
    ((irqId s).isSome = irq s) ∧ ((fiqId s).isSome = fiq s) ∧
    (∀ j, irqId s = some j → j < s.cfg.nPri ∧ (priMasked s).getLsbD j = true ∧ s.cfg.fiqsel.getLsbD j = false ∧
      (s.cfg.prio = .smallest →
        ∀ n < j, ¬ ((priMasked s).getLsbD n = true ∧ s.cfg.fiqsel.getLsbD n = false))) ∧
    (∀ j, fiqId s = some j → j < s.cfg.nPri ∧ (priMasked s).getLsbD j = true ∧ s.cfg.fiqsel.getLsbD j = true ∧
      (s.cfg.prio = .smallest →
        ∀ n < j, ¬ ((priMasked s).getLsbD n = true ∧ s.cfg.fiqsel.getLsbD n = true)))

/-- No automatic decay: a raw bit changes only by the device that drives its line (10_state.md R16;
43_interrupt_fabric.md R179). -/
def Obligations.RawChangesOnlyByDriver : Prop :=
  ∀ (i : Instr) (s t : State) (ctl : Ctrl) (id : Nat), exec i s = .next t →
    (controller t ctl).raw.getLsbD id ≠ (controller s ctl).raw.getLsbD id →
    ∃ d, drives s d ctl id = true ∧ (actsOn s i d ∨ ∃ (n : DWord) (b : Bool), n.toNat = id ∧ i = setLineOp ctl d n b)

/-! ### Ticks and the reference timer -/

/-- The tick of the reference timer (44_device_threads.md R206): the counter, the pending bit, the output line, and nothing
else. -/
def Obligations.TimerTick : Prop :=
  ∀ (s : State) (d : Ident), s.phase ≠ .failed → kindOf s.cfg d = some .tmr → runState s d = .running →
    devErrorHolds s.cfg d (devView s d) = false → BanksComplete s → s.cfg.lineCountsOk = true →
    ∃ t, exec (.tick d) s = .next t ∧ t.response = some (.ok .none) ∧
      tmrCount t d = tmrCount s d + 1 ∧
      cellValue t d 0x0C =
        (if (cellValue s d 0x08).setWidth 64 ≤ tmrCount s d + 1 then 1 else cellValue s d 0x0C) ∧
      (∀ key, key ≠ cellKey d 0x00 → key ≠ cellKey d 0x04 → key ≠ cellKey d 0x0C →
        mapGet t.bank key = mapGet s.bank key) ∧
      (∀ ctl, ∀ j < 32, (controller t ctl).raw.getLsbD j =
        if (cellValue s d 0x08).setWidth 64 ≤ tmrCount s d + 1 ∧ irqOutOf s.cfg d = some ⟨ctl, j⟩ ∧
          drives s d ctl j = true then true else (controller s ctl).raw.getLsbD j) ∧
      { t with
        bank := s.bank, sec := ⟨s.sec.raw, t.sec.conn⟩, pri := ⟨s.pri.raw, t.pri.conn⟩,
        response := s.response } = s

/-- One 64-bit read of a timer's counter answers the whole counter: no tick stands between its halves (20_memory.md R51;
70_reset_and_hazards.md R272). -/
def Obligations.CounterReadIsWhole : Prop :=
  ∀ (i : Instr) (s : State) (m : Ident) (addr : DWord) (u : Bool) (r : Range),
    accessOf i = some ⟨m, addr, 8, u, .read⟩ → InRange s addr 8 r → PlainSlave s r.slave .tmr →
    localOffset r addr = 0 → BanksComplete s →
    Answers i s (.dword (tmrCount s r.slave)) ∧
      ∀ t, exec (.tick r.slave) s = .next t → t.response = some (.ok .none) → runState t r.slave = .running →
        Answers i t (.dword (tmrCount s r.slave + 1))

/-- `TICK` of a device that does not run or has no tick function is refused (44_device_threads.md R200). -/
def Obligations.TickRefusedUnlessRunning : Prop :=
  ∀ (s : State) (d : Ident),
    (s.phase = .failed → RefusedWith (.tick d) s .phase) ∧
    (s.phase ≠ .failed → autonomous s.cfg d = false ∨ runState s d ≠ .running → RefusedWith (.tick d) s .device) ∧
    (∀ k, kindOf s.cfg d = some k → (k = .sec ∨ k = .pri ∨ ∃ size, k = .ram size) → autonomous s.cfg d = false)

/-- The tick of a device whose tick function is open completes, with the effect of that function on the device's own state and
lines (44_device_threads.md R200); it never writes the range table, the phase, RAM, an enable mask, the wiring or a run state,
and no other device's cells or other state, and no line but those the device drives (R201). The function's form is the model's
choice (logs 5, 20). -/
def Obligations.OpenDeviceTick : Prop :=
  ∀ (s : State) (d : Ident), s.phase ≠ .failed → kindOf s.cfg d ≠ some .tmr → autonomous s.cfg d = true →
    runState s d = .running → devErrorHolds s.cfg d (devView s d) = false →
    ∃ t, exec (.tick d) s = .next t ∧
      t = { applyEffect d (Config.tick d (devView s d)) s with response := some (.ok .none) } ∧
      t.response = some (.ok .none) ∧ t.phase = s.phase ∧ t.ranges = s.ranges ∧ t.ram = s.ram ∧ t.run = s.run ∧
      t.shouldHalt = s.shouldHalt ∧ t.cfg = s.cfg ∧ t.sec.conn = s.sec.conn ∧ t.pri.conn = s.pri.conn ∧
      t.pending = s.pending ∧ t.sawRefusal = s.sawRefusal ∧
      (∀ ctl, enableOf t ctl = enableOf s ctl) ∧
      (∀ e, e ≠ d → (∀ off < 2 ^ 32, mapGet t.bank (cellKey e off) = mapGet s.bank (cellKey e off)) ∧
        devOther t e = devOther s e) ∧
      (∀ ctl id, drives s d ctl id = false →
        (controller t ctl).raw.getLsbD id = (controller s ctl).raw.getLsbD id) ∧
      ∀ key, (mapGet t.bank key).isSome = (mapGet s.bank key).isSome

/-- A device whose error predicate holds at its tick goes inert and nothing else changes (44_device_threads.md R203). -/
def Obligations.FailedDeviceGoesInert : Prop :=
  ∀ (s : State) (d : Ident), s.phase ≠ .failed → autonomous s.cfg d = true → runState s d = .running →
    devErrorHolds s.cfg d (devView s d) = true →
    ∃ t, exec (.tick d) s = .next t ∧ t.response = some (.ok .none) ∧ runState t d = .inert ∧
      (∀ e, e ≠ d → runState t e = runState s e) ∧ { t with run := s.run, response := s.response } = s

/-- An inert or halted device stays so, whatever operation is performed (44_device_threads.md R203, R204). -/
def Obligations.StoppedDevicesStayStopped : Prop :=
  ∀ (i : Instr) (s t : State) (d : Ident), LifecycleOk s → exec i s = .next t →
    runState s d = .inert ∨ runState s d = .halted → runState t d = runState s d

/-- The source's scenario: a tick of a timer whose comparator has elapsed makes `irq` true; clearing its pending bit by a
register write makes it false, if no other line keeps it true (43_interrupt_fabric.md R185). -/
def Obligations.TimerRaisesAndClearsIrq : Prop :=
  ∀ (s : State) (d : Ident) (id : Nat), s.phase ≠ .failed → kindOf s.cfg d = some .tmr → runState s d = .running →
    devErrorHolds s.cfg d (devView s d) = false → BanksComplete s → s.cfg.lineCountsOk = true →
    irqOutOf s.cfg d = some ⟨.pri, id⟩ → drives s d .pri id = true → (enableOf s .pri).getLsbD id = true →
    s.cfg.fiqsel.getLsbD id = false → (cellValue s d 0x08).setWidth 64 ≤ tmrCount s d + 1 →
    ∃ t, exec (.tick d) s = .next t ∧ t.response = some (.ok .none) ∧ irq t = true ∧
      ∀ (m : Ident) (addr : DWord) (v : Word) (r : Range), InRange t addr 4 r → PlainSlave t r.slave .tmr →
        r.slave = d → localOffset r addr = 0x0C → v.getLsbD 0 = true →
        ∃ w, exec (.write32 m addr v) t = .next w ∧ w.response = some (.ok .none) ∧ pend w d = false ∧
          w.pri.raw.getLsbD id = false ∧ (irqSet t = [id] → irq w = false)

/-- The write to `TMR_STAT` (44_device_threads.md R207). -/
def Obligations.TimerStatusWrite : Prop :=
  ∀ (i : Instr) (s : State) (m : Ident) (addr : DWord) (u : Bool) (r : Range) (d : Ident) (v : Word),
    accessOf i = some ⟨m, addr, 4, u, .write⟩ → v = lowWord (writeValue i) → InRange s addr 4 r → r.slave = d →
    PlainSlave s d .tmr → localOffset r addr = 0x0C → hasCell s d 0x0C = true → s.cfg.lineCountsOk = true →
    ∃ t, exec i s = .next t ∧ t.response = some (.ok .none) ∧
      cellValue t d 0x0C = cellValue s d 0x0C &&& ~~~v &&& 1 ∧
      (∀ key, key ≠ cellKey d 0x0C → mapGet t.bank key = mapGet s.bank key) ∧
      (∀ ctl, ∀ j < 32, (controller t ctl).raw.getLsbD j =
        if (cellValue s d 0x0C).getLsbD 0 = true ∧ v.getLsbD 0 = true ∧ irqOutOf s.cfg d = some ⟨ctl, j⟩ ∧
          drives s d ctl j = true then false else (controller s ctl).raw.getLsbD j) ∧
      { t with
        bank := s.bank, sec := ⟨s.sec.raw, t.sec.conn⟩, pri := ⟨s.pri.raw, t.pri.conn⟩,
        response := s.response } = s

/-! ### Configuration and lifecycle -/

/-- `ADD_SLAVE`, its tests in their order (42_bus.md R130). -/
def Obligations.AddSlaveOutcome : Prop :=
  ∀ (s : State) (sl : Ident) (low high : DWord),
    (s.phase ≠ .config → RefusedWith (.addSlave sl low high) s .phase) ∧
    (s.phase = .config → kindOf s.cfg sl = none → FailsConfig (.addSlave sl low high) s 0x12) ∧
    (s.phase = .config → kindOf s.cfg sl ≠ none → ¬ low < high → FailsConfig (.addSlave sl low high) s 0x12) ∧
    (s.phase = .config → kindOf s.cfg sl ≠ none → low < high → (∃ r ∈ s.ranges, low < r.high ∧ r.low < high) →
      FailsConfig (.addSlave sl low high) s 0x10) ∧
    (s.phase = .config → kindOf s.cfg sl ≠ none → low < high → (∀ r ∈ s.ranges, ¬ (low < r.high ∧ r.low < high)) →
      exec (.addSlave sl low high) s =
        .next { s with ranges := s.ranges ++ [⟨low, high, sl⟩], response := some (.ok .none) })

/-- `ADD_REGISTER`, its tests in their order (41_register_bank.md R110). -/
def Obligations.AddRegisterOutcome : Prop :=
  ∀ (s : State) (sl : Ident) (off rv : Word),
    (s.phase ≠ .config → RefusedWith (.addRegister sl off rv) s .phase) ∧
    (s.phase = .config → (∀ b, kindOf s.cfg sl ≠ some (.bank b)) → FailsConfig (.addRegister sl off rv) s 0x12) ∧
    (s.phase = .config → (∃ b, kindOf s.cfg sl = some (.bank b)) →
      off.toNat % 4 ≠ 0 ∨ (mapGet s.bank (cellKey sl off.toNat)).isSome = true →
      FailsConfig (.addRegister sl off rv) s 0x12) ∧
    (s.phase = .config → (∃ b, kindOf s.cfg sl = some (.bank b)) → off.toNat % 4 = 0 →
      mapGet s.bank (cellKey sl off.toNat) = none →
      ∃ t name, exec (.addRegister sl off rv) s = .next t ∧ t.response = some (.ok .none) ∧
        mapGet t.bank (cellKey sl off.toNat) = some ⟨name, rv, rv⟩ ∧
        (∀ key, key ≠ cellKey sl off.toNat → mapGet t.bank key = mapGet s.bank key) ∧
        { t with bank := s.bank, response := s.response } = s)

/-- `CONNECT_LINE_SEC` and `CONNECT_LINE_PRI` (43_interrupt_fabric.md R170, R171). -/
def Obligations.ConnectLineOutcome : Prop :=
  ∀ (s : State) (ctl : Ctrl) (d : Ident) (id : DWord),
    (s.phase ≠ .config → RefusedWith (connectOp ctl d id) s .phase) ∧
    (s.phase = .config → lineCount s.cfg ctl ≤ id.toNat → FailsConfig (connectOp ctl d id) s 0x12) ∧
    (s.phase = .config → id.toNat < lineCount s.cfg ctl →
      lineDriver s ctl id.toNat ≠ none ∨ (ctl = .pri ∧ s.cfg.cascade = some id.toNat) →
      FailsConfig (connectOp ctl d id) s 0x11) ∧
    (s.phase = .config → id.toNat < lineCount s.cfg ctl → lineDriver s ctl id.toNat = none →
      ¬ (ctl = .pri ∧ s.cfg.cascade = some id.toNat) →
      ∃ t, exec (connectOp ctl d id) s = .next t ∧ t.response = some (.ok .none) ∧
        (∀ c j, lineDriver t c j = if c = ctl ∧ j = id.toNat then some (.dev d) else lineDriver s c j) ∧
        { t with sec := ⟨t.sec.raw, s.sec.conn⟩, pri := ⟨t.pri.raw, s.pri.conn⟩, response := s.response } = s)

/-- `START_ALL` (42_bus.md R162). -/
def Obligations.StartAllOutcome : Prop :=
  ∀ s : State,
    (s.phase = .config → ∃ t, exec .startAll s = .next t ∧ t.response = some (.ok .none) ∧ t.phase = .run ∧
      (∀ d, runState t d = if autonomous s.cfg d = true then .running else runState s d) ∧
      { t with phase := s.phase, run := s.run, response := s.response } = s) ∧
    (s.phase = .run → Answers .startAll s .none) ∧
    (s.phase = .halted ∨ s.phase = .failed → RefusedWith .startAll s .phase)

/-- `HALT_ALL` (42_bus.md R163). -/
def Obligations.HaltAllOutcome : Prop :=
  ∀ s : State,
    (s.phase = .run → ∃ t, exec .haltAll s = .next t ∧ t.response = some (.ok .none) ∧ t.phase = .halted ∧
      t.shouldHalt = true ∧ (∀ d, runState t d = if runState s d = .running then .halted else runState s d) ∧
      { t with phase := s.phase, run := s.run, shouldHalt := s.shouldHalt, response := s.response } = s) ∧
    (s.phase = .halted → Answers .haltAll s .none) ∧
    (s.phase = .config ∨ s.phase = .failed → RefusedWith .haltAll s .phase)

/-! ### Reset and invariants -/

/-- The state after reset of any board, component by component (10_state.md R26). Of a RAM byte the rule states no value and
nothing is claimed (log 4). -/
def Obligations.ResetValues : Prop :=
  ∀ c : Cfg,
    let s := State.resetOf c
    s.phase = .config ∧ s.ranges = [] ∧ s.sec.raw = 0 ∧ s.pri.raw = 0 ∧ s.shouldHalt = false ∧
    (∀ key cell, mapGet s.bank key = some cell → cell.currentValue = cell.resetValue) ∧
    (∀ ctl, enableOf s ctl = 0) ∧
    (∀ d, kindOf c d = some .tmr → cellValue s d 0x00 = 0 ∧ cellValue s d 0x04 = 0 ∧
      cellValue s d 0x08 = 0xFFFFFFFF ∧ cellValue s d 0x0C = 0 ∧ cellValue s d 0x14 = 0) ∧
    (∀ id, lineDriver s .sec id = none) ∧
    (∀ id, lineDriver s .pri id = if c.cascade = some id then some .secAggr else none) ∧
    (∀ d, autonomous c d = true → runState s d = .idle) ∧
    irq s = false ∧ fiq s = false ∧ secAggr s = false

/-- The invariants hold at reset, on every board. That a device without a tick function is Idle is the model's choice (log
16). -/
def Obligations.InvariantsHoldAtReset : Prop :=
  ∀ c : Cfg, FabricInv (State.resetOf c) ∧ PendMatchesLine (State.resetOf c)

/-- Every step keeps the invariants of the range table (10_state.md R14), the maps, the wiring (R16, R18), the register maps
(R11, R21 to R23), the masks and the lifecycle (R13, R24; of devices without a tick function the model's choice, log 16), from
every state that meets them. -/
def Obligations.StepKeepsFabricInv : Prop :=
  ∀ s t : State, FabricInv s → step s = .next t → FabricInv t

/-- Every step keeps `raw = PEND` for the timers that drive their outputs, as long as no `SET_LINE_*` is issued in a timer's
name (44_device_threads.md R209). -/
def Obligations.StepKeepsPendMatchesLine : Prop :=
  ∀ s t : State, s.cfg.lineCountsOk = true → FabricInv s → PendMatchesLine s →
    (∀ q rest i, s.pending = q :: rest → decodeRecord q = .ok i → ¬ setsTimerLine s.cfg i) →
    step s = .next t → PendMatchesLine t

/-- After `CONFIG` the range table, the set of cells and the wiring never change; reset values never change; and the phase
moves only along the arrows of 10_state.md R13 (70_reset_and_hazards.md R261, R262). -/
def Obligations.ConfigurationFrozen : Prop :=
  ∀ (i : Instr) (s t : State), exec i s = .next t →
    (s.phase ≠ .config → t.ranges = s.ranges ∧ (∀ ctl, (controller t ctl).conn = (controller s ctl).conn) ∧
      ∀ key, (mapGet t.bank key).isSome = (mapGet s.bank key).isSome) ∧
    (∀ key cell, mapGet s.bank key = some cell →
      ∃ v, mapGet t.bank key = some ⟨cell.name, cell.resetValue, v⟩) ∧
    (t.phase = s.phase ∨ (s.phase = .config ∧ i = .startAll ∧ t.phase = .run) ∨
      (s.phase = .run ∧ i = .haltAll ∧ t.phase = .halted) ∨
      (s.phase = .config ∧ t.phase = .failed ∧ ∃ kind, t.response = some (.configError kind)))
end

