-- ==== Sys2Proof/Laws/Assoc.lean ====
section
/-! SUPPORT. The laws of the finite maps: read after write, and the canonical form is kept. -/

namespace Sys2Proof.Laws

open Sys2Proof.Machine

variable {α : Type}

@[simp] theorem mapGet_nil (k : Nat) : mapGet ([] : List (Nat × α)) k = none := rfl

@[simp] theorem mapGet_mapSet_same (m : List (Nat × α)) (k : Nat) (v : α) : mapGet (mapSet m k v) k = some v := by
  induction m with
  | nil => simp [mapSet, mapGet]
  | cons p m ih =>
    obtain ⟨k', v'⟩ := p
    by_cases h1 : k < k'
    · simp [mapSet, h1, mapGet]
    · by_cases h2 : k = k'
      · simp [mapSet, h2, mapGet]
      · simp [mapSet, h1, h2, mapGet, Ne.symm h2, ih]

theorem mapGet_mapSet_other (m : List (Nat × α)) {k j : Nat} (v : α) (h : j ≠ k) :
    mapGet (mapSet m k v) j = mapGet m j := by
  induction m with
  | nil => simp [mapSet, mapGet, Ne.symm h]
  | cons p m ih =>
    obtain ⟨k', v'⟩ := p
    by_cases h1 : k < k'
    · simp [mapSet, h1, mapGet, Ne.symm h]
    · by_cases h2 : k = k'
      · subst h2
        simp [mapSet, mapGet, Ne.symm h]
      · simp only [mapSet, h1, h2, if_false, mapGet]
        split <;> simp_all

theorem mapGet_mapSet (m : List (Nat × α)) (k j : Nat) (v : α) :
    mapGet (mapSet m k v) j = if j = k then some v else mapGet m j := by
  by_cases h : j = k
  · simp [h]
  · simp [h, mapGet_mapSet_other m v h]

/-- Where a key is listed, setting it again keeps the list of keys. -/
theorem keys_mapSet (m : List (Nat × α)) (k : Nat) (v : α) :
    ∀ p ∈ mapSet m k v, p = (k, v) ∨ p ∈ m := by
  induction m with
  | nil => simp [mapSet]
  | cons q m ih =>
    obtain ⟨k', v'⟩ := q
    intro p hp
    simp only [mapSet] at hp
    split at hp
    · simpa using hp
    · split at hp
      · rcases List.mem_cons.1 hp with h | h
        · exact .inl h
        · exact .inr (List.mem_cons_of_mem _ h)
      · rcases List.mem_cons.1 hp with h | h
        · exact .inr (h ▸ List.mem_cons_self)
        · rcases ih p h with h' | h'
          · exact .inl h'
          · exact .inr (List.mem_cons_of_mem _ h')

theorem mapWf_cons (k : Nat) (v : α) (m : List (Nat × α)) :
    mapWf ((k, v) :: m) = true ↔ (∀ p ∈ m.head?, k < p.1) ∧ mapWf m = true := by
  cases m with
  | nil => simp [mapWf]
  | cons p m => simp [mapWf]

theorem head_mapSet (m : List (Nat × α)) (k : Nat) (v : α) {j : Nat} (hj : j < k) (h : ∀ p ∈ m.head?, j < p.1) :
    ∀ p ∈ (mapSet m k v).head?, j < p.1 := by
  cases m with
  | nil => simpa [mapSet] using hj
  | cons q m =>
    obtain ⟨k', v'⟩ := q
    have hk : j < k' := by simpa using h
    by_cases h1 : k < k'
    · simpa [mapSet, h1] using hj
    · by_cases h2 : k = k'
      · simpa [mapSet, h2] using hk
      · simpa [mapSet, h1, h2] using hk

/-- A write keeps the canonical form. -/
theorem mapWf_mapSet (m : List (Nat × α)) (k : Nat) (v : α) (h : mapWf m = true) : mapWf (mapSet m k v) = true := by
  induction m with
  | nil => rfl
  | cons q m ih =>
    obtain ⟨k', v'⟩ := q
    rw [mapWf_cons] at h
    by_cases h1 : k < k'
    · simp only [mapSet, h1, if_true]
      rw [mapWf_cons, mapWf_cons]
      exact ⟨by simpa using h1, h⟩
    · by_cases h2 : k = k'
      · subst h2
        simp only [mapSet, Nat.lt_irrefl, if_false, if_true]
        rw [mapWf_cons]
        exact h
      · simp only [mapSet, h1, h2, if_false]
        rw [mapWf_cons]
        exact ⟨head_mapSet m k v (by omega) h.1, ih h.2⟩

/-- A map over the values keeps the canonical form. -/
theorem mapWf_map (m : List (Nat × α)) (f : α → α) : mapWf (m.map fun p => (p.1, f p.2)) = mapWf m := by
  induction m with
  | nil => rfl
  | cons q m ih =>
    obtain ⟨k, v⟩ := q
    cases m with
    | nil => rfl
    | cons q' m => simpa [mapWf] using congrArg (decide (k < q'.1) && ·) ih

theorem mapGet_map (m : List (Nat × α)) (f : α → α) (k : Nat) :
    mapGet (m.map fun p => (p.1, f p.2)) k = (mapGet m k).map f := by
  induction m with
  | nil => rfl
  | cons q m ih =>
    obtain ⟨k', v⟩ := q
    by_cases h : k' = k <;> simp [mapGet, h, ih]

/-- Every memory operation keeps the canonical form of a memory. -/
theorem memory_wf_memWrite (m : Memory) (a : Nat) (bs : List Byte) (h : m.wf = true) : (memWrite m a bs).wf = true := by
  induction bs generalizing m a with
  | nil => exact h
  | cons b bs ih => exact ih _ _ (mapWf_mapSet m a b h)

/-- A byte outside the written ones keeps its value. -/
theorem mapGet_memWrite_outside (m : Memory) (a : Nat) (bs : List Byte) {k : Nat}
    (h : k < a ∨ a + bs.length ≤ k) : mapGet (memWrite m a bs) k = mapGet m k := by
  induction bs generalizing m a with
  | nil => rfl
  | cons b bs ih =>
    simp only [List.length_cons] at h
    rw [memWrite, ih _ _ (by omega), mapGet_mapSet_other _ _ (by omega)]

/-- A written byte reads back. -/
theorem mapGet_memWrite_inside (m : Memory) (a : Nat) (bs : List Byte) {i : Nat} (h : i < bs.length) :
    mapGet (memWrite m a bs) (a + i) = some bs[i] := by
  induction bs generalizing m a i with
  | nil => simp at h
  | cons b bs ih =>
    cases i with
    | zero =>
      rw [memWrite, mapGet_memWrite_outside _ _ _ (by omega)]
      simp
    | succ i =>
      have := ih (mapSet m a b) (a + 1) (i := i) (by simpa using h)
      rw [memWrite, show a + (i + 1) = a + 1 + i by omega, this]
      simp

theorem memWrite_append (m : Memory) (a : Nat) (bs cs : List Byte) :
    memWrite m a (bs ++ cs) = memWrite (memWrite m a bs) (a + bs.length) cs := by
  induction bs generalizing m a with
  | nil => rfl
  | cons b bs ih => simp [memWrite, ih, Nat.add_assoc, Nat.add_comm 1]

end Sys2Proof.Laws
end

