-- ==== Sys2Proof/Laws/Decode.lean ====
section
/-! SUPPORT. The fields of a record built from fields (30_encoding.md R71). -/

namespace Sys2Proof.Laws

/-- Every bit of a record built from fields. -/
theorem getLsbD_mkRecord (cmd : Byte) (a : Ident) (b c : DWord) (k : Nat) :
    (mkRecord cmd a b c).getLsbD k =
      if k < 8 then cmd.getLsbD k
      else if k < 24 then a.getLsbD (k - 8)
      else if k < 88 then b.getLsbD (k - 24) else c.getLsbD (k - 88) := by
  have h1 := BitVec.getLsbD_append (x := c ++ b ++ a) (y := cmd) (i := k)
  have h2 := BitVec.getLsbD_append (x := c ++ b) (y := a) (i := k - 8)
  have h3 := BitVec.getLsbD_append (x := c) (y := b) (i := k - 8 - 16)
  rw [h2, h3] at h1
  refine h1.trans ?_
  by_cases h8 : k < 8
  · simp [h8]
  · by_cases h24 : k < 24
    · simp [h8, h24, show k - 8 < 16 by omega]
    · have e : k - 8 - 16 = k - 24 := by omega
      have e' : k - 24 - 64 = k - 88 := by omega
      by_cases h88 : k < 88
      · simp [h8, h24, h88, e, show ¬ k - 8 < 16 by omega, show k - 24 < 64 by omega]
      · simp only [h8, h24, h88, e, e', show ¬ k - 8 < 16 by omega, show ¬ k - 24 < 64 by omega, if_false]

@[simp] theorem cmdField_mkRecord (cmd : Byte) (a : Ident) (b c : DWord) : cmdField (mkRecord cmd a b c) = cmd := by
  apply BitVec.eq_of_getLsbD_eq
  intro i hi
  simp [cmdField, getLsbD_mkRecord, hi]

@[simp] theorem aField_mkRecord (cmd : Byte) (a : Ident) (b c : DWord) : aField (mkRecord cmd a b c) = a := by
  apply BitVec.eq_of_getLsbD_eq
  intro i hi
  simp [aField, getLsbD_mkRecord, hi, show 8 + i < 24 by omega]

@[simp] theorem bField_mkRecord (cmd : Byte) (a : Ident) (b c : DWord) : bField (mkRecord cmd a b c) = b := by
  apply BitVec.eq_of_getLsbD_eq
  intro i hi
  simp [bField, getLsbD_mkRecord, hi, show ¬ 24 + i < 8 by omega,
    show 24 + i < 88 by omega]

@[simp] theorem cField_mkRecord (cmd : Byte) (a : Ident) (b c : DWord) : cField (mkRecord cmd a b c) = c := by
  apply BitVec.eq_of_getLsbD_eq
  intro i hi
  simp [cField, getLsbD_mkRecord, hi, show ¬ 88 + i < 8 by omega,
    show ¬ 88 + i < 24 by omega]

/-- The operation code of an encoded operation. -/
@[simp] theorem cmdField_encode (i : Instr) : cmdField (encode i) = i.cmd := cmdField_mkRecord _ _ _ _

end Sys2Proof.Laws
end

