-- ==== Sys2Proof/Laws/Operands.lean ====
section
/-! SUPPORT. Little-endian composition and line vectors, bit by bit. -/

namespace Sys2Proof.Laws

open Sys2Proof.Machine

@[simp] theorem bytesLe_length (v : DWord) (len : Nat) : (bytesLe v len).length = len := by simp [bytesLe]

theorem bytesLe_getElem (v : DWord) (len i : Nat) (h : i < (bytesLe v len).length) : (bytesLe v len)[i] = byteOf v i := by
  simp [bytesLe]

theorem leNat_append (bs cs : List Byte) : leNat (bs ++ cs) = leNat bs + 256 ^ bs.length * leNat cs := by
  induction bs with
  | nil => simp [leNat]
  | cons b bs ih =>
    simp only [List.cons_append, leNat, ih, List.length_cons, pow_succ]
    ring

theorem leNat_lt (bs : List Byte) : leNat bs < 256 ^ bs.length := by
  induction bs with
  | nil => simp [leNat]
  | cons b bs ih =>
    have := b.isLt
    simp only [leNat, List.length_cons, pow_succ]
    omega

/-- Byte `i` of a little-endian composition is the `i`-th byte composed (20_memory.md R44). -/
theorem byteOf_fromLe (bs : List Byte) (i : Nat) (hi : i < bs.length) (h8 : bs.length ≤ 8) :
    byteOf (fromLe bs) i = bs[i] := by
  have hsplit : bs = bs.take i ++ bs[i] :: bs.drop (i + 1) := by simp
  have hlen : (bs.take i).length = i := by simp; omega
  have hle : leNat bs = leNat (bs.take i) + 256 ^ i * (bs[i].toNat + 256 * leNat (bs.drop (i + 1))) := by
    conv_lhs => rw [hsplit, leNat_append, hlen]
    rfl
  have hlt := leNat_lt (bs.take i)
  rw [hlen] at hlt
  have htot := leNat_lt bs
  have hb : leNat bs < 2 ^ 64 := by
    calc leNat bs < 256 ^ bs.length := htot
      _ ≤ 256 ^ 8 := Nat.pow_le_pow_right (by omega) h8
      _ = 2 ^ 64 := by norm_num
  apply BitVec.eq_of_toNat_eq
  simp only [byteOf, fromLe, BitVec.extractLsb'_toNat, BitVec.toNat_ofNat, Nat.shiftRight_eq_div_pow]
  rw [Nat.mod_eq_of_lt hb, Nat.pow_mul, hle]
  norm_num only [Nat.reducePow]
  rw [Nat.add_mul_div_left _ _ (Nat.pos_of_ne_zero (by positivity)), Nat.div_eq_of_lt hlt, Nat.zero_add]
  have := bs[i].isLt
  omega

/-- Two 64-bit values with the same eight bytes are equal. -/
theorem eq_of_bytes {v w : DWord} (h : ∀ i, i < 8 → byteOf v i = byteOf w i) : v = w := by
  apply BitVec.eq_of_getLsbD_eq
  intro i hi
  have := congrArg (fun b : Byte => b.getLsbD (i % 8)) (h (i / 8) (by omega))
  simp only [byteOf, BitVec.getLsbD_extractLsb', Nat.mod_lt _ (show 0 < 8 by omega), decide_true, Bool.true_and] at this
  rwa [Nat.div_add_mod] at this

/-- The bits of a line vector with one bit set or cleared. -/
theorem getLsbD_setBit (v : Word) (i j : Nat) (b : Bool) :
    (setBit v i b).getLsbD j = if j = i ∧ j < 32 then b else v.getLsbD j := by
  unfold setBit
  by_cases hj : j < 32
  · cases b
    · by_cases hji : j = i
      · subst hji
        simp [hj]
      · simp [hj, hji]
        intro _
        omega
    · by_cases hji : j = i
      · subst hji
        simp [hj]
      · simp [hj, hji]
        omega
  · have : v.getLsbD j = false := BitVec.getLsbD_of_ge v j (by omega)
    cases b <;> simp [hj, this]

/-- The bits of the all-ones mask `LM(n)` (10_state.md R20). -/
theorem getLsbD_lineMask (n j : Nat) : (lineMask n).getLsbD j = (decide (j < 32) && decide (j < n)) := by
  simp [lineMask, BitVec.getLsbD_ofNat, Nat.testBit_two_pow_sub_one]

end Sys2Proof.Laws
end

