-- ==== Sys2Proof/Laws/State.lean ====
section
/-! SUPPORT. One lemma per field per update of the state, true by rfl, so that no proof unfolds an update. -/

namespace Sys2Proof.Laws

open Sys2Proof.Machine

variable (s : State)

@[simp] theorem setPhase_phase (v : Phase) : (s.setPhase v).phase = v := rfl
@[simp] theorem setPhase_ranges (v : Phase) : (s.setPhase v).ranges = s.ranges := rfl
@[simp] theorem setPhase_bank (v : Phase) : (s.setPhase v).bank = s.bank := rfl
@[simp] theorem setPhase_ram (v : Phase) : (s.setPhase v).ram = s.ram := rfl
@[simp] theorem setPhase_sec (v : Phase) : (s.setPhase v).sec = s.sec := rfl
@[simp] theorem setPhase_pri (v : Phase) : (s.setPhase v).pri = s.pri := rfl
@[simp] theorem setPhase_run (v : Phase) : (s.setPhase v).run = s.run := rfl
@[simp] theorem setPhase_shouldHalt (v : Phase) : (s.setPhase v).shouldHalt = s.shouldHalt := rfl
@[simp] theorem setPhase_cfg (v : Phase) : (s.setPhase v).cfg = s.cfg := rfl
@[simp] theorem setPhase_devState (v : Phase) : (s.setPhase v).devState = s.devState := rfl
@[simp] theorem setPhase_pending (v : Phase) : (s.setPhase v).pending = s.pending := rfl
@[simp] theorem setPhase_response (v : Phase) : (s.setPhase v).response = s.response := rfl
@[simp] theorem setPhase_sawRefusal (v : Phase) : (s.setPhase v).sawRefusal = s.sawRefusal := rfl

@[simp] theorem setRanges_phase (v : List Range) : (s.setRanges v).phase = s.phase := rfl
@[simp] theorem setRanges_ranges (v : List Range) : (s.setRanges v).ranges = v := rfl
@[simp] theorem setRanges_bank (v : List Range) : (s.setRanges v).bank = s.bank := rfl
@[simp] theorem setRanges_ram (v : List Range) : (s.setRanges v).ram = s.ram := rfl
@[simp] theorem setRanges_sec (v : List Range) : (s.setRanges v).sec = s.sec := rfl
@[simp] theorem setRanges_pri (v : List Range) : (s.setRanges v).pri = s.pri := rfl
@[simp] theorem setRanges_run (v : List Range) : (s.setRanges v).run = s.run := rfl
@[simp] theorem setRanges_shouldHalt (v : List Range) : (s.setRanges v).shouldHalt = s.shouldHalt := rfl
@[simp] theorem setRanges_cfg (v : List Range) : (s.setRanges v).cfg = s.cfg := rfl
@[simp] theorem setRanges_devState (v : List Range) : (s.setRanges v).devState = s.devState := rfl
@[simp] theorem setRanges_pending (v : List Range) : (s.setRanges v).pending = s.pending := rfl
@[simp] theorem setRanges_response (v : List Range) : (s.setRanges v).response = s.response := rfl
@[simp] theorem setRanges_sawRefusal (v : List Range) : (s.setRanges v).sawRefusal = s.sawRefusal := rfl

@[simp] theorem setBank_phase (v : List (Nat × RegCell)) : (s.setBank v).phase = s.phase := rfl
@[simp] theorem setBank_ranges (v : List (Nat × RegCell)) : (s.setBank v).ranges = s.ranges := rfl
@[simp] theorem setBank_bank (v : List (Nat × RegCell)) : (s.setBank v).bank = v := rfl
@[simp] theorem setBank_ram (v : List (Nat × RegCell)) : (s.setBank v).ram = s.ram := rfl
@[simp] theorem setBank_sec (v : List (Nat × RegCell)) : (s.setBank v).sec = s.sec := rfl
@[simp] theorem setBank_pri (v : List (Nat × RegCell)) : (s.setBank v).pri = s.pri := rfl
@[simp] theorem setBank_run (v : List (Nat × RegCell)) : (s.setBank v).run = s.run := rfl
@[simp] theorem setBank_shouldHalt (v : List (Nat × RegCell)) : (s.setBank v).shouldHalt = s.shouldHalt := rfl
@[simp] theorem setBank_cfg (v : List (Nat × RegCell)) : (s.setBank v).cfg = s.cfg := rfl
@[simp] theorem setBank_devState (v : List (Nat × RegCell)) : (s.setBank v).devState = s.devState := rfl
@[simp] theorem setBank_pending (v : List (Nat × RegCell)) : (s.setBank v).pending = s.pending := rfl
@[simp] theorem setBank_response (v : List (Nat × RegCell)) : (s.setBank v).response = s.response := rfl
@[simp] theorem setBank_sawRefusal (v : List (Nat × RegCell)) : (s.setBank v).sawRefusal = s.sawRefusal := rfl

@[simp] theorem setRam_phase (v : Memory) : (s.setRam v).phase = s.phase := rfl
@[simp] theorem setRam_ranges (v : Memory) : (s.setRam v).ranges = s.ranges := rfl
@[simp] theorem setRam_bank (v : Memory) : (s.setRam v).bank = s.bank := rfl
@[simp] theorem setRam_ram (v : Memory) : (s.setRam v).ram = v := rfl
@[simp] theorem setRam_sec (v : Memory) : (s.setRam v).sec = s.sec := rfl
@[simp] theorem setRam_pri (v : Memory) : (s.setRam v).pri = s.pri := rfl
@[simp] theorem setRam_run (v : Memory) : (s.setRam v).run = s.run := rfl
@[simp] theorem setRam_shouldHalt (v : Memory) : (s.setRam v).shouldHalt = s.shouldHalt := rfl
@[simp] theorem setRam_cfg (v : Memory) : (s.setRam v).cfg = s.cfg := rfl
@[simp] theorem setRam_devState (v : Memory) : (s.setRam v).devState = s.devState := rfl
@[simp] theorem setRam_pending (v : Memory) : (s.setRam v).pending = s.pending := rfl
@[simp] theorem setRam_response (v : Memory) : (s.setRam v).response = s.response := rfl
@[simp] theorem setRam_sawRefusal (v : Memory) : (s.setRam v).sawRefusal = s.sawRefusal := rfl

@[simp] theorem setSec_phase (v : Controller) : (s.setSec v).phase = s.phase := rfl
@[simp] theorem setSec_ranges (v : Controller) : (s.setSec v).ranges = s.ranges := rfl
@[simp] theorem setSec_bank (v : Controller) : (s.setSec v).bank = s.bank := rfl
@[simp] theorem setSec_ram (v : Controller) : (s.setSec v).ram = s.ram := rfl
@[simp] theorem setSec_sec (v : Controller) : (s.setSec v).sec = v := rfl
@[simp] theorem setSec_pri (v : Controller) : (s.setSec v).pri = s.pri := rfl
@[simp] theorem setSec_run (v : Controller) : (s.setSec v).run = s.run := rfl
@[simp] theorem setSec_shouldHalt (v : Controller) : (s.setSec v).shouldHalt = s.shouldHalt := rfl
@[simp] theorem setSec_cfg (v : Controller) : (s.setSec v).cfg = s.cfg := rfl
@[simp] theorem setSec_devState (v : Controller) : (s.setSec v).devState = s.devState := rfl
@[simp] theorem setSec_pending (v : Controller) : (s.setSec v).pending = s.pending := rfl
@[simp] theorem setSec_response (v : Controller) : (s.setSec v).response = s.response := rfl
@[simp] theorem setSec_sawRefusal (v : Controller) : (s.setSec v).sawRefusal = s.sawRefusal := rfl

@[simp] theorem setPri_phase (v : Controller) : (s.setPri v).phase = s.phase := rfl
@[simp] theorem setPri_ranges (v : Controller) : (s.setPri v).ranges = s.ranges := rfl
@[simp] theorem setPri_bank (v : Controller) : (s.setPri v).bank = s.bank := rfl
@[simp] theorem setPri_ram (v : Controller) : (s.setPri v).ram = s.ram := rfl
@[simp] theorem setPri_sec (v : Controller) : (s.setPri v).sec = s.sec := rfl
@[simp] theorem setPri_pri (v : Controller) : (s.setPri v).pri = v := rfl
@[simp] theorem setPri_run (v : Controller) : (s.setPri v).run = s.run := rfl
@[simp] theorem setPri_shouldHalt (v : Controller) : (s.setPri v).shouldHalt = s.shouldHalt := rfl
@[simp] theorem setPri_cfg (v : Controller) : (s.setPri v).cfg = s.cfg := rfl
@[simp] theorem setPri_devState (v : Controller) : (s.setPri v).devState = s.devState := rfl
@[simp] theorem setPri_pending (v : Controller) : (s.setPri v).pending = s.pending := rfl
@[simp] theorem setPri_response (v : Controller) : (s.setPri v).response = s.response := rfl
@[simp] theorem setPri_sawRefusal (v : Controller) : (s.setPri v).sawRefusal = s.sawRefusal := rfl

@[simp] theorem setRun_phase (v : List (Nat × RunState)) : (s.setRun v).phase = s.phase := rfl
@[simp] theorem setRun_ranges (v : List (Nat × RunState)) : (s.setRun v).ranges = s.ranges := rfl
@[simp] theorem setRun_bank (v : List (Nat × RunState)) : (s.setRun v).bank = s.bank := rfl
@[simp] theorem setRun_ram (v : List (Nat × RunState)) : (s.setRun v).ram = s.ram := rfl
@[simp] theorem setRun_sec (v : List (Nat × RunState)) : (s.setRun v).sec = s.sec := rfl
@[simp] theorem setRun_pri (v : List (Nat × RunState)) : (s.setRun v).pri = s.pri := rfl
@[simp] theorem setRun_run (v : List (Nat × RunState)) : (s.setRun v).run = v := rfl
@[simp] theorem setRun_shouldHalt (v : List (Nat × RunState)) : (s.setRun v).shouldHalt = s.shouldHalt := rfl
@[simp] theorem setRun_cfg (v : List (Nat × RunState)) : (s.setRun v).cfg = s.cfg := rfl
@[simp] theorem setRun_devState (v : List (Nat × RunState)) : (s.setRun v).devState = s.devState := rfl
@[simp] theorem setRun_pending (v : List (Nat × RunState)) : (s.setRun v).pending = s.pending := rfl
@[simp] theorem setRun_response (v : List (Nat × RunState)) : (s.setRun v).response = s.response := rfl
@[simp] theorem setRun_sawRefusal (v : List (Nat × RunState)) : (s.setRun v).sawRefusal = s.sawRefusal := rfl

@[simp] theorem setShouldHalt_phase (v : Bool) : (s.setShouldHalt v).phase = s.phase := rfl
@[simp] theorem setShouldHalt_ranges (v : Bool) : (s.setShouldHalt v).ranges = s.ranges := rfl
@[simp] theorem setShouldHalt_bank (v : Bool) : (s.setShouldHalt v).bank = s.bank := rfl
@[simp] theorem setShouldHalt_ram (v : Bool) : (s.setShouldHalt v).ram = s.ram := rfl
@[simp] theorem setShouldHalt_sec (v : Bool) : (s.setShouldHalt v).sec = s.sec := rfl
@[simp] theorem setShouldHalt_pri (v : Bool) : (s.setShouldHalt v).pri = s.pri := rfl
@[simp] theorem setShouldHalt_run (v : Bool) : (s.setShouldHalt v).run = s.run := rfl
@[simp] theorem setShouldHalt_shouldHalt (v : Bool) : (s.setShouldHalt v).shouldHalt = v := rfl
@[simp] theorem setShouldHalt_cfg (v : Bool) : (s.setShouldHalt v).cfg = s.cfg := rfl
@[simp] theorem setShouldHalt_devState (v : Bool) : (s.setShouldHalt v).devState = s.devState := rfl
@[simp] theorem setShouldHalt_pending (v : Bool) : (s.setShouldHalt v).pending = s.pending := rfl
@[simp] theorem setShouldHalt_response (v : Bool) : (s.setShouldHalt v).response = s.response := rfl
@[simp] theorem setShouldHalt_sawRefusal (v : Bool) : (s.setShouldHalt v).sawRefusal = s.sawRefusal := rfl

@[simp] theorem setDevState_phase (v : List (Nat × List DWord)) : (s.setDevState v).phase = s.phase := rfl
@[simp] theorem setDevState_ranges (v : List (Nat × List DWord)) : (s.setDevState v).ranges = s.ranges := rfl
@[simp] theorem setDevState_bank (v : List (Nat × List DWord)) : (s.setDevState v).bank = s.bank := rfl
@[simp] theorem setDevState_ram (v : List (Nat × List DWord)) : (s.setDevState v).ram = s.ram := rfl
@[simp] theorem setDevState_sec (v : List (Nat × List DWord)) : (s.setDevState v).sec = s.sec := rfl
@[simp] theorem setDevState_pri (v : List (Nat × List DWord)) : (s.setDevState v).pri = s.pri := rfl
@[simp] theorem setDevState_run (v : List (Nat × List DWord)) : (s.setDevState v).run = s.run := rfl
@[simp] theorem setDevState_shouldHalt (v : List (Nat × List DWord)) : (s.setDevState v).shouldHalt = s.shouldHalt := rfl
@[simp] theorem setDevState_cfg (v : List (Nat × List DWord)) : (s.setDevState v).cfg = s.cfg := rfl
@[simp] theorem setDevState_devState (v : List (Nat × List DWord)) : (s.setDevState v).devState = v := rfl
@[simp] theorem setDevState_pending (v : List (Nat × List DWord)) : (s.setDevState v).pending = s.pending := rfl
@[simp] theorem setDevState_response (v : List (Nat × List DWord)) : (s.setDevState v).response = s.response := rfl
@[simp] theorem setDevState_sawRefusal (v : List (Nat × List DWord)) : (s.setDevState v).sawRefusal = s.sawRefusal := rfl

@[simp] theorem setPending_phase (v : List Request) : (s.setPending v).phase = s.phase := rfl
@[simp] theorem setPending_ranges (v : List Request) : (s.setPending v).ranges = s.ranges := rfl
@[simp] theorem setPending_bank (v : List Request) : (s.setPending v).bank = s.bank := rfl
@[simp] theorem setPending_ram (v : List Request) : (s.setPending v).ram = s.ram := rfl
@[simp] theorem setPending_sec (v : List Request) : (s.setPending v).sec = s.sec := rfl
@[simp] theorem setPending_pri (v : List Request) : (s.setPending v).pri = s.pri := rfl
@[simp] theorem setPending_run (v : List Request) : (s.setPending v).run = s.run := rfl
@[simp] theorem setPending_shouldHalt (v : List Request) : (s.setPending v).shouldHalt = s.shouldHalt := rfl
@[simp] theorem setPending_cfg (v : List Request) : (s.setPending v).cfg = s.cfg := rfl
@[simp] theorem setPending_devState (v : List Request) : (s.setPending v).devState = s.devState := rfl
@[simp] theorem setPending_pending (v : List Request) : (s.setPending v).pending = v := rfl
@[simp] theorem setPending_response (v : List Request) : (s.setPending v).response = s.response := rfl
@[simp] theorem setPending_sawRefusal (v : List Request) : (s.setPending v).sawRefusal = s.sawRefusal := rfl

@[simp] theorem setResponse_phase (v : Option Response) : (s.setResponse v).phase = s.phase := rfl
@[simp] theorem setResponse_ranges (v : Option Response) : (s.setResponse v).ranges = s.ranges := rfl
@[simp] theorem setResponse_bank (v : Option Response) : (s.setResponse v).bank = s.bank := rfl
@[simp] theorem setResponse_ram (v : Option Response) : (s.setResponse v).ram = s.ram := rfl
@[simp] theorem setResponse_sec (v : Option Response) : (s.setResponse v).sec = s.sec := rfl
@[simp] theorem setResponse_pri (v : Option Response) : (s.setResponse v).pri = s.pri := rfl
@[simp] theorem setResponse_run (v : Option Response) : (s.setResponse v).run = s.run := rfl
@[simp] theorem setResponse_shouldHalt (v : Option Response) : (s.setResponse v).shouldHalt = s.shouldHalt := rfl
@[simp] theorem setResponse_cfg (v : Option Response) : (s.setResponse v).cfg = s.cfg := rfl
@[simp] theorem setResponse_devState (v : Option Response) : (s.setResponse v).devState = s.devState := rfl
@[simp] theorem setResponse_pending (v : Option Response) : (s.setResponse v).pending = s.pending := rfl
@[simp] theorem setResponse_response (v : Option Response) : (s.setResponse v).response = v := rfl
@[simp] theorem setResponse_sawRefusal (v : Option Response) : (s.setResponse v).sawRefusal = s.sawRefusal := rfl

@[simp] theorem setSawRefusal_phase (v : Bool) : (s.setSawRefusal v).phase = s.phase := rfl
@[simp] theorem setSawRefusal_ranges (v : Bool) : (s.setSawRefusal v).ranges = s.ranges := rfl
@[simp] theorem setSawRefusal_bank (v : Bool) : (s.setSawRefusal v).bank = s.bank := rfl
@[simp] theorem setSawRefusal_ram (v : Bool) : (s.setSawRefusal v).ram = s.ram := rfl
@[simp] theorem setSawRefusal_sec (v : Bool) : (s.setSawRefusal v).sec = s.sec := rfl
@[simp] theorem setSawRefusal_pri (v : Bool) : (s.setSawRefusal v).pri = s.pri := rfl
@[simp] theorem setSawRefusal_run (v : Bool) : (s.setSawRefusal v).run = s.run := rfl
@[simp] theorem setSawRefusal_shouldHalt (v : Bool) : (s.setSawRefusal v).shouldHalt = s.shouldHalt := rfl
@[simp] theorem setSawRefusal_cfg (v : Bool) : (s.setSawRefusal v).cfg = s.cfg := rfl
@[simp] theorem setSawRefusal_devState (v : Bool) : (s.setSawRefusal v).devState = s.devState := rfl
@[simp] theorem setSawRefusal_pending (v : Bool) : (s.setSawRefusal v).pending = s.pending := rfl
@[simp] theorem setSawRefusal_response (v : Bool) : (s.setSawRefusal v).response = s.response := rfl
@[simp] theorem setSawRefusal_sawRefusal (v : Bool) : (s.setSawRefusal v).sawRefusal = v := rfl

end Sys2Proof.Laws
end

