-- ==== Sys2Proof/Laws/Ops.lean ====
section
/-! SUPPORT. One lemma per shared operation of Machine/Ops.lean: what it changes and what it leaves alone. -/

namespace Sys2Proof.Laws

open Sys2Proof.Machine

theorem cellKey_inj {a b : Ident} {o p : Nat} (ho : o < 2 ^ 32) (hp : p < 2 ^ 32)
    (h : cellKey a o = cellKey b p) : a = b ∧ o = p := by
  unfold cellKey at h
  refine ⟨BitVec.eq_of_toNat_eq ?_, ?_⟩ <;> omega

theorem ramKey_inj {a b : Ident} {o p : Nat} (ho : o < 2 ^ 64) (hp : p < 2 ^ 64)
    (h : ramKey a o = ramKey b p) : a = b ∧ o = p := by
  unfold ramKey at h
  refine ⟨BitVec.eq_of_toNat_eq ?_, ?_⟩ <;> omega

theorem ramKey_add (a : Ident) (o i : Nat) : ramKey a o + i = ramKey a (o + i) := by
  simp [ramKey, Nat.add_assoc]

/-! ### Responses -/

@[simp] theorem respond_response (d : Data) (s : State) : (respond d s).response = some (.ok d) := rfl

@[simp] theorem raiseBusFault_response (k : BusFaultKind) (a : DWord) (n : Nat) (d : Dir) (m : Ident) (s : State) :
    (raiseBusFault k a n d m s).response = some (.busFault k a n d m) := rfl

@[simp] theorem raiseConfigError_response (k : ConfigErrorKind) (s : State) :
    (raiseConfigError k s).response = some (.configError k) := rfl

@[simp] theorem raiseConfigError_phase (k : ConfigErrorKind) (s : State) : (raiseConfigError k s).phase = .failed := rfl

@[simp] theorem refuse_response (w : RefuseReason) (s : State) : (refuse w s).response = some (.refused w) := rfl

/-! ### Cells -/

/-- `setCell` writes one current value of one cell, or nothing. -/
theorem setCell_spec (sl : Ident) (off : Nat) (v : Word) (s : State) :
    setCell sl off v s = s ∨ ∃ cell, mapGet s.bank (cellKey sl off) = some cell ∧
      setCell sl off v s = s.setBank (mapSet s.bank (cellKey sl off) { cell with currentValue := v }) := by
  unfold setCell
  cases h : mapGet s.bank (cellKey sl off) with
  | none => exact .inl rfl
  | some cell => exact .inr ⟨cell, rfl, rfl⟩

/-- `setCell` changes the bank map only. -/
theorem setCell_eq_setBank (sl : Ident) (off : Nat) (v : Word) (s : State) :
    ∃ b, setCell sl off v s = s.setBank b := by
  rcases setCell_spec sl off v s with h | ⟨c, -, h⟩
  · exact ⟨s.bank, h⟩
  · exact ⟨_, h⟩

theorem mapGet_setCell_same (sl : Ident) (off : Nat) (v : Word) (s : State) :
    mapGet (setCell sl off v s).bank (cellKey sl off) =
      (mapGet s.bank (cellKey sl off)).map fun c => { c with currentValue := v } := by
  unfold setCell
  cases h : mapGet s.bank (cellKey sl off) <;> simp [h]

theorem mapGet_setCell_other (sl : Ident) (off : Nat) (v : Word) (s : State) {k : Nat} (h : k ≠ cellKey sl off) :
    mapGet (setCell sl off v s).bank k = mapGet s.bank k := by
  rcases setCell_spec sl off v s with h' | ⟨c, -, h'⟩
  · rw [h']
  · rw [h', setBank_bank, mapGet_mapSet_other _ _ h]

theorem cellValue_setCell_same (sl : Ident) (off : Nat) (v : Word) (s : State) (h : hasCell s sl off = true) :
    cellValue (setCell sl off v s) sl off = v := by
  simp only [hasCell, Bool.and_eq_true, Option.isSome_iff_exists] at h
  obtain ⟨-, c, hc⟩ := h
  simp [cellValue, mapGet_setCell_same, hc]

theorem cellValue_setCell_other (sl sl' : Ident) (off off' : Nat) (v : Word) (s : State)
    (h : cellKey sl' off' ≠ cellKey sl off) : cellValue (setCell sl off v s) sl' off' = cellValue s sl' off' := by
  simp [cellValue, mapGet_setCell_other sl off v s h]

@[simp] theorem hasCell_setCell (sl sl' : Ident) (off off' : Nat) (v : Word) (s : State) :
    hasCell (setCell sl off v s) sl' off' = hasCell s sl' off' := by
  unfold hasCell
  by_cases h : cellKey sl' off' = cellKey sl off
  · rw [h, mapGet_setCell_same]
    simp
  · rw [mapGet_setCell_other _ _ _ _ h]

/-- A device's view shows exactly the cells of its own bank, each with its reset and its current value. -/
theorem mem_devView_cells (s : State) (d : Ident) (off : Nat) (v : CellView) :
    (off, v) ∈ (devView s d).cells ↔ ∃ p ∈ s.bank, p.1 / 2 ^ 32 = d.toNat ∧ p.1 % 2 ^ 32 = off ∧
      v = ⟨p.2.resetValue, p.2.currentValue⟩ := by
  simp only [devView, List.mem_filterMap, Option.ite_none_right_eq_some, Option.some.injEq, Prod.mk.injEq]
  exact exists_congr fun p => and_congr_right fun _ => and_congr_right fun _ => and_congr_right fun _ => eq_comm

@[simp] theorem stateView_phase (s : State) (d : Ident) : (stateView s d).phase = s.phase := rfl

@[simp] theorem stateView_other (s : State) (d : Ident) : (stateView s d).other = devOther s d := rfl

/-- The response, the presented requests, the refusal mark and the board are no part of what a slave's function sees. -/
@[simp] theorem stateView_setResponse (s : State) (d : Ident) (r : Option Response) :
    stateView (s.setResponse r) d = stateView s d := rfl

@[simp] theorem stateView_setPending (s : State) (d : Ident) (l : List Request) :
    stateView (s.setPending l) d = stateView s d := rfl

/-! ### RAM -/

/-- A byte inside the written ones reads back as written. -/
theorem ramByte_ramWrite_inside (sl : Ident) (off : Nat) (bs : List Byte) (s : State) {i : Nat} (h : i < bs.length) :
    ramByte (ramWrite sl off bs s) sl (off + i) = bs[i] := by
  simp [ramByte, ramWrite, ← ramKey_add, mapGet_memWrite_inside _ _ _ h]

/-- Every byte outside the written ones, of this or another RAM, keeps its value. -/
theorem ramByte_ramWrite_outside (sl sl' : Ident) (off o : Nat) (bs : List Byte) (s : State) (ho : o < 2 ^ 64)
    (hend : off + bs.length ≤ 2 ^ 64) (h : sl' ≠ sl ∨ o < off ∨ off + bs.length ≤ o) :
    ramByte (ramWrite sl off bs s) sl' o = ramByte s sl' o := by
  have hk : ramKey sl' o < ramKey sl off ∨ ramKey sl off + bs.length ≤ ramKey sl' o := by
    unfold ramKey
    rcases h with h | h | h
    · have : sl'.toNat ≠ sl.toNat := fun e => h (BitVec.eq_of_toNat_eq e)
      omega
    · by_cases e : sl'.toNat = sl.toNat <;> omega
    · by_cases e : sl'.toNat = sl.toNat <;> omega
  simp [ramByte, ramWrite, mapGet_memWrite_outside _ _ _ hk]

/-! ### Lines -/

@[simp] theorem setRaw_conn (ctl ctl' : Ctrl) (id : Nat) (b : Bool) (s : State) :
    (controller (setRaw ctl id b s) ctl').conn = (controller s ctl').conn := by
  cases ctl <;> cases ctl' <;> rfl

/-- `setRaw` writes one raw bit of one controller. -/
theorem setRaw_raw (ctl ctl' : Ctrl) (id j : Nat) (b : Bool) (s : State) :
    (controller (setRaw ctl id b s) ctl').raw.getLsbD j =
      if ctl' = ctl ∧ j = id ∧ j < 32 then b else (controller s ctl').raw.getLsbD j := by
  cases ctl <;> cases ctl' <;> simp [setRaw, controller, getLsbD_setBit]

theorem setRaw_eq (ctl : Ctrl) (id : Nat) (b : Bool) (s : State) :
    ∃ r q, setRaw ctl id b s = (s.setSec { s.sec with raw := r }).setPri { s.pri with raw := q } := by
  cases ctl
  · exact ⟨setBit s.sec.raw id b, s.pri.raw, rfl⟩
  · exact ⟨s.sec.raw, setBit s.pri.raw id b, rfl⟩

@[simp] theorem lineDriver_setRaw (ctl ctl' : Ctrl) (id j : Nat) (b : Bool) (s : State) :
    lineDriver (setRaw ctl id b s) ctl' j = lineDriver s ctl' j := by
  simp [lineDriver]

@[simp] theorem setRaw_cfg (ctl : Ctrl) (id : Nat) (b : Bool) (s : State) : (setRaw ctl id b s).cfg = s.cfg := by
  cases ctl <;> rfl

@[simp] theorem drives_setRaw (ctl ctl' : Ctrl) (id j : Nat) (b : Bool) (d : Ident) (s : State) :
    drives (setRaw ctl id b s) d ctl' j = drives s d ctl' j := by
  simp [drives]

end Sys2Proof.Laws
end

