-- ==== Sys2Proof/Laws/DeviceSteps.lean ====
section
/-! SUPPORT. Everything an access to a slave or the tick of a device can do, said once: a sequence of primitive updates of the
device's own cells, bytes, other state and lines (41_register_bank.md R113; 44_device_threads.md R201). Invariants over
accesses and ticks are inductions over this sequence. -/

namespace Sys2Proof.Laws

open Sys2Proof.Machine

/-- What is known of a cell the machine writes: an ENABLE register is written masked, a timer's `TMR_STAT` gets 0 or 1. -/
structure CellWriteOk (c : Cfg) (d : Ident) (off : Nat) (v : Word) : Prop where
  key : off < 2 ^ 32
  sec : kindOf c d = some .sec → off = 0x04 → v &&& lineMask c.nSec = v
  pri : kindOf c d = some .pri → off = 0x04 → v &&& lineMask c.nPri = v
  tmr : kindOf c d = some .tmr → off = 0x0C → v.toNat ≤ 1

/-- A sequence of primitive updates by device `d`. -/
inductive DeviceSteps (d : Ident) : State → State → Prop where
  | refl (s : State) : DeviceSteps d s s
  | cell {s t : State} {off : Nat} {v : Word} (ok : CellWriteOk s.cfg d off v) (h : DeviceSteps d s t) :
      DeviceSteps d s (setCell d off v t)
  | ram {s t : State} {off : Nat} {bs : List Byte} {size : Nat} (hk : kindOf s.cfg d = some (.ram size))
      (hb : off + bs.length ≤ 2 ^ 64) (h : DeviceSteps d s t) : DeviceSteps d s (ramWrite d off bs t)
  | other {s t : State} {l : List DWord} (h : DeviceSteps d s t) :
      DeviceSteps d s (t.setDevState (mapSet t.devState d.toNat l))
  | line {s t : State} {ctl : Ctrl} {id : Nat} {b : Bool} (h : DeviceSteps d s t) :
      DeviceSteps d s (deviceSetLine d ctl id b t)

/-- What no device step changes. -/
structure SameFabric (s t : State) : Prop where
  phase : t.phase = s.phase
  ranges : t.ranges = s.ranges
  run : t.run = s.run
  shouldHalt : t.shouldHalt = s.shouldHalt
  cfg : t.cfg = s.cfg
  pending : t.pending = s.pending
  response : t.response = s.response
  sawRefusal : t.sawRefusal = s.sawRefusal
  conn : ∀ ctl, (controller t ctl).conn = (controller s ctl).conn

theorem SameFabric.refl (s : State) : SameFabric s s := ⟨rfl, rfl, rfl, rfl, rfl, rfl, rfl, rfl, fun _ => rfl⟩

theorem SameFabric.trans {s t u : State} (h : SameFabric s t) (g : SameFabric t u) : SameFabric s u :=
  ⟨g.phase.trans h.phase, g.ranges.trans h.ranges, g.run.trans h.run, g.shouldHalt.trans h.shouldHalt,
    g.cfg.trans h.cfg, g.pending.trans h.pending, g.response.trans h.response, g.sawRefusal.trans h.sawRefusal,
    fun c => (g.conn c).trans (h.conn c)⟩

theorem setBank_sameFabric (s : State) (b : List (Nat × RegCell)) : SameFabric s (s.setBank b) :=
  ⟨rfl, rfl, rfl, rfl, rfl, rfl, rfl, rfl, fun c => by cases c <;> rfl⟩

theorem setRam_sameFabric (s : State) (b : Memory) : SameFabric s (s.setRam b) :=
  ⟨rfl, rfl, rfl, rfl, rfl, rfl, rfl, rfl, fun c => by cases c <;> rfl⟩

theorem setDevState_sameFabric (s : State) (b : List (Nat × List DWord)) : SameFabric s (s.setDevState b) :=
  ⟨rfl, rfl, rfl, rfl, rfl, rfl, rfl, rfl, fun c => by cases c <;> rfl⟩

theorem setRaw_sameFabric (ctl : Ctrl) (id : Nat) (b : Bool) (s : State) : SameFabric s (setRaw ctl id b s) := by
  obtain ⟨r, q, h⟩ := setRaw_eq ctl id b s
  refine ⟨?_, ?_, ?_, ?_, ?_, ?_, ?_, ?_, fun c => setRaw_conn ctl c id b s⟩ <;> rw [h] <;> rfl

theorem setCell_sameFabric (d : Ident) (off : Nat) (v : Word) (s : State) : SameFabric s (setCell d off v s) := by
  obtain ⟨b, h⟩ := setCell_eq_setBank d off v s
  rw [h]
  exact setBank_sameFabric s b

theorem deviceSetLine_sameFabric (d : Ident) (ctl : Ctrl) (id : Nat) (b : Bool) (s : State) :
    SameFabric s (deviceSetLine d ctl id b s) := by
  unfold deviceSetLine
  split
  · exact setRaw_sameFabric ctl id b s
  · exact SameFabric.refl s

/-- A device step leaves the fabric's structure alone: phase, ranges, run states, wiring, configuration, requests. -/
theorem deviceSteps_sameFabric {d : Ident} {s t : State} (h : DeviceSteps d s t) : SameFabric s t := by
  induction h with
  | refl => exact SameFabric.refl _
  | cell _ _ ih => exact ih.trans (setCell_sameFabric _ _ _ _)
  | ram _ _ _ ih => exact ih.trans (setRam_sameFabric _ _)
  | other _ ih => exact ih.trans (setDevState_sameFabric _ _)
  | line _ ih => exact ih.trans (deviceSetLine_sameFabric _ _ _ _ _)

theorem deviceSteps_trans {d : Ident} {s t u : State} (h : DeviceSteps d s t) (g : DeviceSteps d t u) :
    DeviceSteps d s u := by
  have hc := (deviceSteps_sameFabric h).cfg
  induction g with
  | refl => exact h
  | cell ok _ ih => exact .cell (hc ▸ ok) ih
  | ram hk hb _ ih => exact .ram (hc ▸ hk) hb ih
  | other _ ih => exact .other ih
  | line _ ih => exact .line ih

/-! ### The functions of devices are sequences of device steps -/

/-- The kinds whose functions are open: a device that is no slave, a generic bank, an `Other` slave. -/
def OpenKind (c : Cfg) (d : Ident) : Prop :=
  kindOf c d ≠ some .sec ∧ kindOf c d ≠ some .pri ∧ kindOf c d ≠ some .tmr

theorem CellWriteOk.ofOpen {c : Cfg} {d : Ident} {off : Nat} {v : Word} (ho : OpenKind c d) (hk : off < 2 ^ 32) :
    CellWriteOk c d off v :=
  ⟨hk, fun h => absurd h ho.1, fun h => absurd h ho.2.1, fun h => absurd h ho.2.2⟩

theorem writeCells_steps (d : Ident) (ws : List (Word × Word)) (s : State) (ho : OpenKind s.cfg d) :
    DeviceSteps d s (writeCells d ws s) := by
  induction ws generalizing s with
  | nil => exact .refl s
  | cons w ws ih =>
    refine deviceSteps_trans (.cell (CellWriteOk.ofOpen ho w.1.isLt) (.refl s)) (ih _ ?_)
    rwa [(setCell_sameFabric d w.1.toNat w.2 s).cfg]

theorem callLines_steps (d : Ident) (ls : List (Ctrl × Nat × Bool)) (s : State) :
    DeviceSteps d s (callLines d ls s) := by
  induction ls generalizing s with
  | nil => exact .refl s
  | cons l ls ih => exact deviceSteps_trans (.line (.refl s)) (ih _)

theorem applyEffect_steps (d : Ident) (e : DevEffect) (s : State) (ho : OpenKind s.cfg d) :
    DeviceSteps d s (applyEffect d e s) :=
  deviceSteps_trans (.other (writeCells_steps d e.cellWrites s ho)) (callLines_steps d e.lines _)

theorem driveOutput_steps (d : Ident) (b : Bool) (s : State) : DeviceSteps d s (driveOutput d b s) := by
  unfold driveOutput
  split
  · exact .line (.refl s)
  · exact .refl s

theorem and_one_le (x : Word) : (x &&& 1).toNat ≤ 1 := by
  rw [BitVec.toNat_and]
  exact Nat.and_le_right

theorem and_mask_idem (v m : Word) : v &&& m &&& m = v &&& m := by
  rw [BitVec.and_assoc, BitVec.and_self]

theorem writeTmrStat_steps (d : Ident) (v : Word) (s : State) (hk : kindOf s.cfg d = some .tmr) :
    DeviceSteps d s (writeTmrStat d v s) := by
  have hcell : DeviceSteps d s (setCell d 0x0C (cellValue s d 0x0C &&& ~~~v &&& 1) s) :=
    .cell ⟨by norm_num, by simp [hk], by simp [hk], fun _ _ => and_one_le _⟩ (.refl s)
  simp only [writeTmrStat]
  split
  · exact deviceSteps_trans hcell (driveOutput_steps d false _)
  · exact hcell

theorem readOverride_steps (sl : Ident) (k : SlaveKind) (off : Nat) (s : State) (hk : kindOf s.cfg sl = some k) :
    DeviceSteps sl s (readOverride sl k off s).2 := by
  cases k with
  | bank b => exact applyEffect_steps _ _ _ ⟨by simp [hk], by simp [hk], by simp [hk]⟩
  | _ => exact .refl s

theorem writeOverride_steps (sl : Ident) (k : SlaveKind) (off : Nat) (v : Word) (s : State)
    (hk : kindOf s.cfg sl = some k) : DeviceSteps sl s (writeOverride sl k off v s) := by
  cases k with
  | bank b => exact applyEffect_steps _ _ _ ⟨by simp [hk], by simp [hk], by simp [hk]⟩
  | tmr => exact writeTmrStat_steps sl v s hk
  | sec =>
    simp only [writeOverride]
    split
    · exact .cell ⟨by norm_num, fun _ _ => and_mask_idem _ _, by simp [hk], by simp [hk]⟩ (.refl s)
    · exact .refl s
  | pri =>
    simp only [writeOverride]
    split
    · exact .cell ⟨by norm_num, by simp [hk], fun _ _ => and_mask_idem _ _, by simp [hk]⟩ (.refl s)
    · exact .refl s
  | _ => exact .refl s

theorem openKind_of_fn {c : Cfg} {sl : Ident} {k : SlaveKind} (hk : kindOf c sl = some k)
    (hd : defaultHandler k = .fn) : OpenKind c sl := by
  cases k <;> simp [defaultHandler] at hd
  exact ⟨by simp [hk], by simp [hk], by simp [hk]⟩

theorem readDefault_steps (sl : Ident) (k : SlaveKind) (off : Nat) (s : State) (hk : kindOf s.cfg sl = some k) :
    DeviceSteps sl s (readDefault sl k off s).2 := by
  unfold readDefault
  split
  · exact .refl s
  · exact .refl s
  · exact applyEffect_steps _ _ _ (openKind_of_fn hk ‹_›)
  · exact .refl s

theorem writeDefault_steps (sl : Ident) (k : SlaveKind) (off : Nat) (v : Word) (s : State)
    (hk : kindOf s.cfg sl = some k) : DeviceSteps sl s (writeDefault sl k off v s) := by
  unfold writeDefault
  split
  · exact .refl s
  · exact .refl s
  · exact applyEffect_steps _ _ _ (openKind_of_fn hk ‹_›)
  · exact .refl s

theorem bankReadWord_steps (sl : Ident) (k : SlaveKind) (off : Nat) (s : State) (hk : kindOf s.cfg sl = some k) :
    DeviceSteps sl s (bankReadWord sl k off s).2 := by
  unfold bankReadWord
  split
  · exact readOverride_steps sl k off s hk
  · exact .refl s
  · exact .refl s
  · exact readDefault_steps sl k off s hk
  · exact .refl s

/-- Which cells a plain cell write can reach: SEC and PRI have an override at their one cell, TMR at `TMR_STAT`. -/
theorem cell_class_write {s : State} {sl : Ident} {k : SlaveKind} {off : Nat}
    (hc : bankClass s sl k off .write = .cell) : off < 2 ^ 32 ∧ off ∉ writeOverrides k ∧ hasCell s sl off = true := by
  unfold bankClass at hc
  split at hc
  · cases hc
  · rename_i hno
    split at hc
    · rename_i hcell
      have hlt : off < 2 ^ 32 := by
        simp only [hasCell, Bool.and_eq_true, decide_eq_true_eq] at hcell
        exact hcell.1
      exact ⟨hlt, fun hm => hno ⟨hlt, hm⟩, hcell⟩
    · split at hc
      · cases hc
      · split at hc <;> cases hc

/-- A device step adds and removes no cell. -/
theorem deviceSteps_hasCell {d : Ident} {s t : State} (h : DeviceSteps d s t) (sl : Ident) (off : Nat) :
    hasCell t sl off = hasCell s sl off := by
  induction h with
  | refl => rfl
  | cell _ _ ih => rw [hasCell_setCell, ih]
  | ram _ _ _ ih => exact ih
  | other _ ih => exact ih
  | line _ ih =>
    rw [← ih]
    unfold deviceSetLine
    split
    · rename_i ctl _ _ _ _
      cases ctl <;> rfl
    · rfl

theorem bankWriteWord_steps (sl : Ident) (k : SlaveKind) (off : Nat) (v : Word) (s : State)
    (hk : kindOf s.cfg sl = some k) : DeviceSteps sl s (bankWriteWord sl k off v s) := by
  unfold bankWriteWord
  split
  · exact writeOverride_steps sl k off v s hk
  · rename_i hc
    obtain ⟨hlt, hno, -⟩ := cell_class_write hc
    refine .cell ⟨hlt, fun h ho => ?_, fun h ho => ?_, fun h ho => ?_⟩ (.refl s) <;>
    · rw [hk, Option.some.injEq] at h
      simp [h, writeOverrides, ho] at hno
  · exact .refl s
  · exact writeDefault_steps sl k off v s hk
  · exact .refl s

theorem bankRead_steps (sl : Ident) (k : SlaveKind) (off len : Nat) (s : State) (hk : kindOf s.cfg sl = some k) :
    DeviceSteps sl s (bankRead sl k off len s).2 := by
  have hlo := bankReadWord_steps sl k off s hk
  unfold bankRead
  split
  · refine deviceSteps_trans hlo (bankReadWord_steps sl k (off + 4) _ ?_)
    rwa [(deviceSteps_sameFabric hlo).cfg]
  · exact hlo

theorem bankWrite_steps (sl : Ident) (k : SlaveKind) (off len : Nat) (v : DWord) (s : State)
    (hk : kindOf s.cfg sl = some k) : DeviceSteps sl s (bankWrite sl k off len v s) := by
  unfold bankWrite
  split
  · have hlo := bankWriteWord_steps sl k off (lowWord v) s hk
    refine deviceSteps_trans hlo (bankWriteWord_steps sl k (off + 4) _ _ ?_)
    rwa [(deviceSteps_sameFabric hlo).cfg]
  · exact bankWriteWord_steps sl k off _ s hk

/-! ### Accesses and ticks -/

/-- The capability of an access is the slave's own and that of its `SUPPORTS_M`, which has no direction
(42_bus.md R159). -/
theorem supports_eq_true {s : State} {sl m : Ident} {off len : Nat} {dir : Dir} :
    supports s sl m off len dir = true ↔ ∃ k, kindOf s.cfg sl = some k ∧ kindSupports s sl k m off len dir = true ∧
      (sl ∈ s.cfg.masterFilter → Config.supportsMaster sl m off len = true) := by
  unfold supports masterAdmits
  cases kindOf s.cfg sl <;> simp [imp_iff_not_or]

/-- Without a `SUPPORTS_M` the functions of a slave see the same master, whoever it is (20_memory.md R42). -/
theorem seenMaster_plain {c : Cfg} {sl : Ident} (h : sl ∉ c.masterFilter) (m m' : Ident) :
    seenMaster c sl m = seenMaster c sl m' := by
  simp [seenMaster, h]

/-- An aligned read of a slave is a sequence of its own steps. -/
theorem slaveRead_steps (sl m : Ident) (off len : Nat) (s : State) : DeviceSteps sl s (slaveRead sl m off len s).2 := by
  unfold slaveRead
  split
  · exact .refl s
  · exact bankRead_steps sl _ off len s ‹_›
  · exact bankRead_steps sl _ off len s ‹_›
  · exact bankRead_steps sl _ off len s ‹_›
  · exact bankRead_steps sl _ off len s ‹_›
  · rename_i hk
    exact applyEffect_steps _ _ _ ⟨by simp [hk], by simp [hk], by simp [hk]⟩
  · exact .refl s

/-- An aligned write to a slave is a sequence of its own steps. -/
theorem slaveWrite_steps (sl m : Ident) (off len : Nat) (v : DWord) (s : State) (hb : off + len ≤ 2 ^ 64) :
    DeviceSteps sl s (slaveWrite sl m off len v s) := by
  unfold slaveWrite
  split
  · exact .ram ‹_› (by simpa using hb) (.refl s)
  · exact bankWrite_steps sl _ off len v s ‹_›
  · exact bankWrite_steps sl _ off len v s ‹_›
  · exact bankWrite_steps sl _ off len v s ‹_›
  · exact bankWrite_steps sl _ off len v s ‹_›
  · rename_i hk
    exact applyEffect_steps _ _ _ ⟨by simp [hk], by simp [hk], by simp [hk]⟩
  · exact .refl s

theorem readBytes_steps (sl m : Ident) (off n : Nat) (s : State) : DeviceSteps sl s (readBytes sl m off n s).2 := by
  induction n generalizing off s with
  | zero => exact .refl s
  | succ n ih => exact deviceSteps_trans (slaveRead_steps sl m off 1 s) (ih _ _)

theorem writeBytes_steps (sl m : Ident) (off : Nat) (bs : List Byte) (s : State) (hb : off + bs.length ≤ 2 ^ 64) :
    DeviceSteps sl s (writeBytes sl m off bs s) := by
  induction bs generalizing off s with
  | nil => exact .refl s
  | cons b bs ih =>
    simp only [List.length_cons] at hb
    exact deviceSteps_trans (slaveWrite_steps sl m off 1 _ s (by omega)) (ih _ _ (by omega))

/-- An unaligned read of a slave is a sequence of its own steps. -/
theorem slaveReadU_steps (sl m : Ident) (off len : Nat) (s : State) : DeviceSteps sl s (slaveReadU sl m off len s).2 := by
  unfold slaveReadU
  split
  · exact slaveRead_steps sl m off len s
  · exact readBytes_steps sl m off len s

/-- An unaligned write to a slave is a sequence of its own steps. -/
theorem slaveWriteU_steps (sl m : Ident) (off len : Nat) (v : DWord) (s : State) (hb : off + len ≤ 2 ^ 64) :
    DeviceSteps sl s (slaveWriteU sl m off len v s) := by
  unfold slaveWriteU
  split
  · exact slaveWrite_steps sl m off len v s hb
  · exact writeBytes_steps sl m off _ s (by simpa using hb)

theorem tickTmr_steps (d : Ident) (s : State) (hk : kindOf s.cfg d = some .tmr) : DeviceSteps d s (tickTmr d s) := by
  have hcnt : DeviceSteps d s (setCell d 0x04 (highWord (tmrCount s d + 1))
      (setCell d 0x00 (lowWord (tmrCount s d + 1)) s)) :=
    .cell ⟨by norm_num, by simp [hk], by simp [hk], by simp⟩
      (.cell ⟨by norm_num, by simp [hk], by simp [hk], by simp⟩ (.refl s))
  simp only [tickTmr]
  split
  · exact deviceSteps_trans (.cell ⟨by norm_num, by simp [hk], by simp [hk], fun _ _ => by simp⟩ hcnt)
      (driveOutput_steps d true _)
  · exact hcnt

/-- A tick is a sequence of the device's own steps (44_device_threads.md R201). -/
theorem tickDevice_steps (d : Ident) (s : State) (ha : autonomous s.cfg d = true) :
    DeviceSteps d s (tickDevice d s) := by
  unfold tickDevice
  split
  · exact tickTmr_steps d s ‹_›
  · rename_i hne
    refine applyEffect_steps _ _ _ ⟨fun h => ?_, fun h => ?_, fun h => hne h⟩ <;> simp [autonomous, h] at ha

end Sys2Proof.Laws
end

