-- ==== Sys2Proof/Laws/Exec.lean ====
section
/-! SUPPORT. Everything one operation can do, said once (`exec_effect`), and the same of one step (`step_effect`). -/

namespace Sys2Proof.Laws

open Sys2Proof.Machine Sys2Proof.Safety

/-- The cases of one operation's effect. -/
inductive OpEffect (i : Instr) (s : State) : State → Prop where
  | refused (why : RefuseReason) : OpEffect i s (refuse why s)
  | busFault (acc : Access) (kind : BusFaultKind) (hi : accessOf i = some acc) (hp : s.phase ≠ .failed) :
      OpEffect i s (raiseBusFault kind acc.addr acc.len acc.dir acc.master s)
  | configError (kind : ConfigErrorKind) (hp : s.phase = .config) : OpEffect i s (raiseConfigError kind s)
  | answer (d : Data) (hp : s.phase ≠ .failed) : OpEffect i s (respond d s)
  | access (acc : Access) (r : Range) (t : State) (d : Data) (hi : accessOf i = some acc) (hp : s.phase ≠ .failed)
      (hm : Mapped s acc.addr r) (steps : DeviceSteps r.slave s t) : OpEffect i s (respond d t)
  | tick (d : Ident) (hi : i = .tick d) (hp : s.phase ≠ .failed) (ha : autonomous s.cfg d = true)
      (hr : runState s d = .running) : OpEffect i s (respond .none (tickDevice d s))
  | inert (d : Ident) (hi : i = .tick d) (hp : s.phase ≠ .failed) (ha : autonomous s.cfg d = true)
      (hr : runState s d = .running) : OpEffect i s (respond .none (setRunState d .inert s))
  | setLine (ctl : Ctrl) (d : Ident) (id : DWord) (b : Bool)
      (hi : i = match ctl with | .sec => .setLineSec d id b | .pri => .setLinePri d id b)
      (hp : s.phase ≠ .failed) (hd : drives s d ctl id.toNat = true) :
      OpEffect i s (respond .none (setRaw ctl id.toNat b s))
  | addSlave (sl : Ident) (low high : DWord) (hi : i = .addSlave sl low high) (hp : s.phase = .config)
      (hk : kindOf s.cfg sl ≠ none) (hlt : low < high) (hno : ∀ r ∈ s.ranges, high ≤ r.low ∨ r.high ≤ low) :
      OpEffect i s (respond .none (s.setRanges (s.ranges ++ [⟨low, high, sl⟩])))
  | addRegister (sl : Ident) (off rv : Word) (hi : i = .addRegister sl off rv) (hp : s.phase = .config)
      (hk : isBank s.cfg sl = true) (hal : off.toNat % 4 = 0) (hno : hasCell s sl off.toNat = false) :
      OpEffect i s (respond .none (s.setBank (mapSet s.bank (cellKey sl off.toNat) (newCell "" rv))))
  | connect (ctl : Ctrl) (d : Ident) (id : DWord)
      (hi : i = match ctl with | .sec => .connectLineSec d id | .pri => .connectLinePri d id)
      (hp : s.phase = .config) (hid : id.toNat < lineCount s.cfg ctl) (hc : isCascade s.cfg ctl id.toNat = false)
      (hno : lineDriver s ctl id.toNat = none) : OpEffect i s (respond .none (bindLine ctl id.toNat d s))
  | start (hi : i = .startAll) (hp : s.phase = .config) :
      OpEffect i s (respond .none ((startDevices s).setPhase .run))
  | halt (hi : i = .haltAll) (hp : s.phase = .run) :
      OpEffect i s (respond .none
        (((s.setShouldHalt true).setRun (s.run.map fun p => (p.1, haltRun p.2))).setPhase .halted))

/-- A routed access passed every test of R140. -/
theorem routeAccess_hit {s : State} {m : Ident} {addr : DWord} {len : Nat} {u : Bool} {dir : Dir} {r : Range} :
    routeAccess s m addr len u dir = .hit r ↔
      InRange s addr len r ∧ (u = false → localOffset r addr % len = 0) ∧
        canAccess s r.slave m (localOffset r addr) len dir = true := by
  unfold routeAccess InRange Mapped
  by_cases hp : s.phase = .failed
  · simp [hp]
  · cases hd : decodeAddr s.ranges addr with
    | none => simp [hp]
    | some q =>
      simp only [hp, if_false]
      constructor
      · intro h
        split at h
        · cases h
        · split at h
          · cases h
          · split at h
            · cases h
            · simp only [Route.hit.injEq] at h
              subst h
              simp_all [endsInside, isAligned]
      · rintro ⟨⟨-, hq, hin⟩, hal, hcan⟩
        simp only [Option.some.injEq] at hq
        subst hq
        cases u <;> simp_all [endsInside, isAligned]

theorem routeAccess_refused {s : State} {m : Ident} {addr : DWord} {len : Nat} {u : Bool} {dir : Dir} :
    routeAccess s m addr len u dir = .refusedPhase ↔ s.phase = .failed := by
  unfold routeAccess
  by_cases hp : s.phase = .failed
  · simp [hp]
  · simp only [hp, if_false, iff_false]
    split
    · simp
    · split
      · simp
      · split
        · simp
        · split <;> simp

theorem busRead_effect (i : Instr) (s : State) (m : Ident) (addr : DWord) (len : Nat) (u : Bool)
    (wrap : DWord → Data) (hi : accessOf i = some ⟨m, addr, len, u, .read⟩) :
    OpEffect i s (busRead m addr len u wrap s) := by
  unfold busRead
  cases hr : routeAccess s m addr len u .read with
  | refusedPhase => exact .refused .phase
  | fault k =>
    refine .busFault ⟨m, addr, len, u, .read⟩ k hi fun hp => ?_
    rw [routeAccess_refused.2 hp] at hr
    cases hr
  | hit r =>
    obtain ⟨⟨hp, hm, -⟩, -⟩ := routeAccess_hit.1 hr
    refine .access ⟨m, addr, len, u, .read⟩ r _ _ hi hp hm ?_
    cases u
    · exact slaveRead_steps _ _ _ _ _
    · exact slaveReadU_steps _ _ _ _ _

/-- An access inside a range ends below 2^64. -/
theorem inRange_lt {s : State} {addr : DWord} {len : Nat} {r : Range} (h : InRange s addr len r) :
    localOffset r addr + len ≤ 2 ^ 64 := by
  have := r.high.isLt
  have := h.2.2
  unfold rangeSize at this
  omega

theorem busWrite_effect (i : Instr) (s : State) (m : Ident) (addr : DWord) (len : Nat) (u : Bool) (v : DWord)
    (hi : accessOf i = some ⟨m, addr, len, u, .write⟩) : OpEffect i s (busWrite m addr len u v s) := by
  unfold busWrite
  cases hr : routeAccess s m addr len u .write with
  | refusedPhase => exact .refused .phase
  | fault k =>
    refine .busFault ⟨m, addr, len, u, .write⟩ k hi fun hp => ?_
    rw [routeAccess_refused.2 hp] at hr
    cases hr
  | hit r =>
    obtain ⟨hin, -⟩ := routeAccess_hit.1 hr
    refine .access ⟨m, addr, len, u, .write⟩ r _ _ hi hin.1 hin.2.1 ?_
    cases u
    · exact slaveWrite_steps _ _ _ _ _ _ (inRange_lt hin)
    · exact slaveWriteU_steps _ _ _ _ _ _ (inRange_lt hin)

theorem busProbe_effect (i : Instr) (s : State) (m : Ident) (addr : DWord) (len : Nat) (dir : Dir) :
    OpEffect i s (busProbe m addr len dir s) := by
  unfold busProbe
  split
  · exact .refused .phase
  · exact .answer _ ‹_›

theorem queryLevel_effect (i : Instr) (s : State) (f : State → Bool) : OpEffect i s (queryLevel f s) := by
  unfold queryLevel
  split
  · exact .refused .phase
  · exact .answer _ ‹_›

theorem setLine_effect (i : Instr) (s : State) (ctl : Ctrl) (d : Ident) (id : DWord) (b : Bool)
    (hi : i = match ctl with | .sec => .setLineSec d id b | .pri => .setLinePri d id b) :
    OpEffect i s (setLine ctl d id b s) := by
  unfold setLine
  split
  · exact .refused .phase
  · split
    · exact .refused .line
    · exact .setLine ctl d id b hi ‹_› (by simp_all)

theorem tickStep_effect (s : State) (d : Ident) : OpEffect (.tick d) s (tickStep d s) := by
  unfold tickStep
  split
  · exact .refused .phase
  · split
    · exact .refused .device
    · rename_i hp hr
      simp only [Bool.or_eq_true, Bool.not_eq_eq_eq_not, Bool.not_true, decide_eq_true_eq, not_or,
        Bool.not_eq_false, not_not] at hr
      split
      · exact .inert d rfl hp hr.1 hr.2
      · exact .tick d rfl hp hr.1 hr.2

theorem addSlave_effect (s : State) (sl : Ident) (low high : DWord) :
    OpEffect (.addSlave sl low high) s (addSlave sl low high s) := by
  simp only [addSlave]
  split
  · exact .refused .phase
  · rename_i hp
    simp only [ne_eq, not_not] at hp
    split
    · exact .configError _ hp
    · split
      · exact .configError _ hp
      · split
        · exact .configError _ hp
        · rename_i hk hlt hov
          refine .addSlave sl low high rfl hp hk (by simpa using hlt) fun r hr => ?_
          have := mt (fun h => List.any_eq_true.2 ⟨r, hr, h⟩) hov
          simp only [rangesOverlap, Bool.and_eq_true, decide_eq_true_eq, not_and, BitVec.not_lt] at this
          by_cases h : low < r.high
          · exact .inl (this h)
          · exact .inr (by simpa using h)

theorem addRegister_effect (s : State) (sl : Ident) (off rv : Word) :
    OpEffect (.addRegister sl off rv) s (addRegister sl off rv s) := by
  unfold addRegister
  split
  · exact .refused .phase
  · rename_i hp
    simp only [ne_eq, not_not] at hp
    split
    · exact .configError _ hp
    · split
      · exact .configError _ hp
      · split
        · exact .configError _ hp
        · exact .addRegister sl off rv rfl hp (by simp_all) (by simp_all [isAligned]) (by simp_all)

theorem connectLine_effect (i : Instr) (s : State) (ctl : Ctrl) (d : Ident) (id : DWord)
    (hi : i = match ctl with | .sec => .connectLineSec d id | .pri => .connectLinePri d id) :
    OpEffect i s (connectLine ctl d id s) := by
  unfold connectLine
  split
  · exact .refused .phase
  · rename_i hp
    simp only [ne_eq, not_not] at hp
    split
    · exact .configError _ hp
    · split
      · exact .configError _ hp
      · exact .connect ctl d id hi hp (by simp_all) (by simp_all) (by simp_all)

theorem startAll_effect (s : State) : OpEffect .startAll s (startAll s) := by
  unfold startAll
  split
  · exact .start rfl ‹_›
  · exact .answer _ (by simp_all)
  · exact .refused .phase
  · exact .refused .phase

theorem haltAll_effect (s : State) : OpEffect .haltAll s (haltAll s) := by
  unfold haltAll
  split
  · exact .halt rfl ‹_›
  · exact .answer _ (by simp_all)
  · exact .refused .phase
  · exact .refused .phase

/-- Every operation answers a next state, and the next state is one of the cases of `OpEffect`. -/
theorem exec_effect (i : Instr) (s : State) : ∃ t, exec i s = .next t ∧ OpEffect i s t := by
  cases i with
  | read8 m a => exact ⟨_, rfl, busRead_effect _ s m a 1 false asByte rfl⟩
  | read16 m a => exact ⟨_, rfl, busRead_effect _ s m a 2 false asHalf rfl⟩
  | read32 m a => exact ⟨_, rfl, busRead_effect _ s m a 4 false asWord rfl⟩
  | read64 m a => exact ⟨_, rfl, busRead_effect _ s m a 8 false asDWord rfl⟩
  | read16u m a => exact ⟨_, rfl, busRead_effect _ s m a 2 true asHalf rfl⟩
  | read32u m a => exact ⟨_, rfl, busRead_effect _ s m a 4 true asWord rfl⟩
  | read64u m a => exact ⟨_, rfl, busRead_effect _ s m a 8 true asDWord rfl⟩
  | write8 m a v => exact ⟨_, rfl, busWrite_effect _ s m a 1 false _ rfl⟩
  | write16 m a v => exact ⟨_, rfl, busWrite_effect _ s m a 2 false _ rfl⟩
  | write32 m a v => exact ⟨_, rfl, busWrite_effect _ s m a 4 false _ rfl⟩
  | write64 m a v => exact ⟨_, rfl, busWrite_effect _ s m a 8 false _ rfl⟩
  | write16u m a v => exact ⟨_, rfl, busWrite_effect _ s m a 2 true _ rfl⟩
  | write32u m a v => exact ⟨_, rfl, busWrite_effect _ s m a 4 true _ rfl⟩
  | write64u m a v => exact ⟨_, rfl, busWrite_effect _ s m a 8 true _ rfl⟩
  | canread m a len => exact ⟨_, rfl, busProbe_effect _ s m a len .read⟩
  | canwrite m a len => exact ⟨_, rfl, busProbe_effect _ s m a len .write⟩
  | irqQ => exact ⟨_, rfl, queryLevel_effect _ s irq⟩
  | fiqQ => exact ⟨_, rfl, queryLevel_effect _ s fiq⟩
  | setLineSec d id b => exact ⟨_, rfl, setLine_effect _ s .sec d id b rfl⟩
  | setLinePri d id b => exact ⟨_, rfl, setLine_effect _ s .pri d id b rfl⟩
  | tick d => exact ⟨_, rfl, tickStep_effect s d⟩
  | addSlave sl low high => exact ⟨_, rfl, addSlave_effect s sl low high⟩
  | addRegister sl off rv => exact ⟨_, rfl, addRegister_effect s sl off rv⟩
  | connectLineSec d id => exact ⟨_, rfl, connectLine_effect _ s .sec d id rfl⟩
  | connectLinePri d id => exact ⟨_, rfl, connectLine_effect _ s .pri d id rfl⟩
  | startAll => exact ⟨_, rfl, startAll_effect s⟩
  | haltAll => exact ⟨_, rfl, haltAll_effect s⟩

/-- The form `exec_effect` is used in: whatever next state an operation answers is a case of `OpEffect`. -/
theorem exec_next_effect {i : Instr} {s t : State} (h : exec i s = .next t) : OpEffect i s t := by
  obtain ⟨u, hu, he⟩ := exec_effect i s
  rw [hu] at h
  cases h
  exact he

/-- One step: idle, a reserved `cmd`, or one operation on the state that has taken its request. -/
theorem step_effect {s t : State} (h : step s = .next t) :
    (s.pending = [] ∧ t = s) ∨ ∃ q rest, s.pending = q :: rest ∧
      ((∃ e, decodeRecord q = .error e ∧ t = refuse .encoding (s.setPending rest)) ∨
        ∃ i, decodeRecord q = .ok i ∧ OpEffect i (s.setPending rest) t) := by
  unfold step takeRequest at h
  cases hp : s.pending with
  | nil =>
    simp only [hp] at h
    cases h
    exact .inl ⟨rfl, rfl⟩
  | cons q rest =>
    simp only [hp] at h
    refine .inr ⟨q, rest, rfl, ?_⟩
    cases hd : decodeRecord q with
    | error e =>
      simp only [hd, proceed] at h
      cases h
      exact .inl ⟨e, rfl, rfl⟩
    | ok i =>
      simp only [hd] at h
      exact .inr ⟨i, rfl, exec_next_effect h⟩

end Sys2Proof.Laws
end

