-- ==== Sys2Proof/Laws/PerInstr.lean ====
section
/-! SUPPORT. One lemma per operation: the record the encoder writes is of the operation's own row of the opcode map
(30_encoding.md R74; spec/opcode_table.json). -/

namespace Sys2Proof.Laws

/-- The row of an operation: mask and match of its `cmd` byte. -/
structure OpcodeRow.Row where
  mnemonic : String
  mask : Byte
  code : Byte
  deriving DecidableEq, Repr

/-- The 27 rows of the map (30_encoding.md R74). -/
def OpcodeRow.table : List OpcodeRow.Row :=
  [⟨"READ8", 0xFF, 0x00⟩, ⟨"READ16", 0xFF, 0x01⟩, ⟨"READ32", 0xFF, 0x02⟩,
    ⟨"READ64", 0xFF, 0x03⟩, ⟨"READ16U", 0xFF, 0x09⟩, ⟨"READ32U", 0xFF, 0x0A⟩,
    ⟨"READ64U", 0xFF, 0x0B⟩, ⟨"WRITE8", 0xFF, 0x10⟩, ⟨"WRITE16", 0xFF, 0x11⟩,
    ⟨"WRITE32", 0xFF, 0x12⟩, ⟨"WRITE64", 0xFF, 0x13⟩, ⟨"WRITE16U", 0xFF, 0x19⟩,
    ⟨"WRITE32U", 0xFF, 0x1A⟩, ⟨"WRITE64U", 0xFF, 0x1B⟩, ⟨"CANREAD", 0xFC, 0x40⟩,
    ⟨"CANWRITE", 0xFC, 0x50⟩, ⟨"IRQ_Q", 0xFF, 0x60⟩, ⟨"FIQ_Q", 0xFF, 0x61⟩,
    ⟨"SET_LINE_SEC", 0xFF, 0x80⟩, ⟨"SET_LINE_PRI", 0xFF, 0x81⟩, ⟨"TICK", 0xFF, 0x88⟩,
    ⟨"ADD_SLAVE", 0xFF, 0xC0⟩, ⟨"ADD_REGISTER", 0xFF, 0xC1⟩, ⟨"CONNECT_LINE_SEC", 0xFF, 0xC2⟩,
    ⟨"CONNECT_LINE_PRI", 0xFF, 0xC3⟩, ⟨"START_ALL", 0xFF, 0xC8⟩, ⟨"HALT_ALL", 0xFF, 0xC9⟩]

/-- The mnemonics of the rows a `cmd` byte matches. -/
def OpcodeRow.rowsOf (cmd : Byte) : List String :=
  (OpcodeRow.table.filter fun r => decide (cmd &&& r.mask = r.code)).map (·.mnemonic)

/-- For a well-formed operation: its mnemonic's row is in the map, and the `cmd` byte of its record matches that row and no
other. -/
def OpcodeRow.Statement (i : Instr) : Prop :=
  i.wf = true → OpcodeRow.rowsOf (cmdField (encode i)) = [i.mnemonic]

/-- The four size codes of a probe (30_encoding.md R72). -/
theorem isAccessLen_cases {len : Nat} (h : isAccessLen len = true) : len = 1 ∨ len = 2 ∨ len = 4 ∨ len = 8 := by
  simpa [isAccessLen, or_assoc] using h

theorem OpcodeRow.read8 (master : Ident) (addr : DWord) : OpcodeRow.Statement (.read8 master addr) := by
  intro _
  rw [cmdField_encode]
  exact (by decide : OpcodeRow.rowsOf 0x00 = ["READ8"])

theorem OpcodeRow.read16 (master : Ident) (addr : DWord) : OpcodeRow.Statement (.read16 master addr) := by
  intro _
  rw [cmdField_encode]
  exact (by decide : OpcodeRow.rowsOf 0x01 = ["READ16"])

theorem OpcodeRow.read32 (master : Ident) (addr : DWord) : OpcodeRow.Statement (.read32 master addr) := by
  intro _
  rw [cmdField_encode]
  exact (by decide : OpcodeRow.rowsOf 0x02 = ["READ32"])

theorem OpcodeRow.read64 (master : Ident) (addr : DWord) : OpcodeRow.Statement (.read64 master addr) := by
  intro _
  rw [cmdField_encode]
  exact (by decide : OpcodeRow.rowsOf 0x03 = ["READ64"])

theorem OpcodeRow.read16u (master : Ident) (addr : DWord) : OpcodeRow.Statement (.read16u master addr) := by
  intro _
  rw [cmdField_encode]
  exact (by decide : OpcodeRow.rowsOf 0x09 = ["READ16U"])

theorem OpcodeRow.read32u (master : Ident) (addr : DWord) : OpcodeRow.Statement (.read32u master addr) := by
  intro _
  rw [cmdField_encode]
  exact (by decide : OpcodeRow.rowsOf 0x0A = ["READ32U"])

theorem OpcodeRow.read64u (master : Ident) (addr : DWord) : OpcodeRow.Statement (.read64u master addr) := by
  intro _
  rw [cmdField_encode]
  exact (by decide : OpcodeRow.rowsOf 0x0B = ["READ64U"])

theorem OpcodeRow.write8 (master : Ident) (addr : DWord) (value : Byte) : OpcodeRow.Statement (.write8 master addr value) := by
  intro _
  rw [cmdField_encode]
  exact (by decide : OpcodeRow.rowsOf 0x10 = ["WRITE8"])

theorem OpcodeRow.write16 (master : Ident) (addr : DWord) (value : BitVec 16) : OpcodeRow.Statement (.write16 master addr value) := by
  intro _
  rw [cmdField_encode]
  exact (by decide : OpcodeRow.rowsOf 0x11 = ["WRITE16"])

theorem OpcodeRow.write32 (master : Ident) (addr : DWord) (value : Word) : OpcodeRow.Statement (.write32 master addr value) := by
  intro _
  rw [cmdField_encode]
  exact (by decide : OpcodeRow.rowsOf 0x12 = ["WRITE32"])

theorem OpcodeRow.write64 (master : Ident) (addr : DWord) (value : DWord) : OpcodeRow.Statement (.write64 master addr value) := by
  intro _
  rw [cmdField_encode]
  exact (by decide : OpcodeRow.rowsOf 0x13 = ["WRITE64"])

theorem OpcodeRow.write16u (master : Ident) (addr : DWord) (value : BitVec 16) : OpcodeRow.Statement (.write16u master addr value) := by
  intro _
  rw [cmdField_encode]
  exact (by decide : OpcodeRow.rowsOf 0x19 = ["WRITE16U"])

theorem OpcodeRow.write32u (master : Ident) (addr : DWord) (value : Word) : OpcodeRow.Statement (.write32u master addr value) := by
  intro _
  rw [cmdField_encode]
  exact (by decide : OpcodeRow.rowsOf 0x1A = ["WRITE32U"])

theorem OpcodeRow.write64u (master : Ident) (addr : DWord) (value : DWord) : OpcodeRow.Statement (.write64u master addr value) := by
  intro _
  rw [cmdField_encode]
  exact (by decide : OpcodeRow.rowsOf 0x1B = ["WRITE64U"])

theorem OpcodeRow.canread (master : Ident) (addr : DWord) (len : Nat) : OpcodeRow.Statement (.canread master addr len) := by
  intro h
  rcases isAccessLen_cases h with rfl | rfl | rfl | rfl
  · rw [cmdField_encode]
    exact (by decide : OpcodeRow.rowsOf 0x40 = ["CANREAD"])
  · rw [cmdField_encode]
    exact (by decide : OpcodeRow.rowsOf 0x41 = ["CANREAD"])
  · rw [cmdField_encode]
    exact (by decide : OpcodeRow.rowsOf 0x42 = ["CANREAD"])
  · rw [cmdField_encode]
    exact (by decide : OpcodeRow.rowsOf 0x43 = ["CANREAD"])

theorem OpcodeRow.canwrite (master : Ident) (addr : DWord) (len : Nat) : OpcodeRow.Statement (.canwrite master addr len) := by
  intro h
  rcases isAccessLen_cases h with rfl | rfl | rfl | rfl
  · rw [cmdField_encode]
    exact (by decide : OpcodeRow.rowsOf 0x50 = ["CANWRITE"])
  · rw [cmdField_encode]
    exact (by decide : OpcodeRow.rowsOf 0x51 = ["CANWRITE"])
  · rw [cmdField_encode]
    exact (by decide : OpcodeRow.rowsOf 0x52 = ["CANWRITE"])
  · rw [cmdField_encode]
    exact (by decide : OpcodeRow.rowsOf 0x53 = ["CANWRITE"])

theorem OpcodeRow.irqQ : OpcodeRow.Statement .irqQ := by
  intro _
  rw [cmdField_encode]
  exact (by decide : OpcodeRow.rowsOf 0x60 = ["IRQ_Q"])

theorem OpcodeRow.fiqQ : OpcodeRow.Statement .fiqQ := by
  intro _
  rw [cmdField_encode]
  exact (by decide : OpcodeRow.rowsOf 0x61 = ["FIQ_Q"])

theorem OpcodeRow.setLineSec (dev : Ident) (id : DWord) (value : Bool) : OpcodeRow.Statement (.setLineSec dev id value) := by
  intro _
  rw [cmdField_encode]
  exact (by decide : OpcodeRow.rowsOf 0x80 = ["SET_LINE_SEC"])

theorem OpcodeRow.setLinePri (dev : Ident) (id : DWord) (value : Bool) : OpcodeRow.Statement (.setLinePri dev id value) := by
  intro _
  rw [cmdField_encode]
  exact (by decide : OpcodeRow.rowsOf 0x81 = ["SET_LINE_PRI"])

theorem OpcodeRow.tick (dev : Ident) : OpcodeRow.Statement (.tick dev) := by
  intro _
  rw [cmdField_encode]
  exact (by decide : OpcodeRow.rowsOf 0x88 = ["TICK"])

theorem OpcodeRow.addSlave (slave : Ident) (low : DWord) (high : DWord) : OpcodeRow.Statement (.addSlave slave low high) := by
  intro _
  rw [cmdField_encode]
  exact (by decide : OpcodeRow.rowsOf 0xC0 = ["ADD_SLAVE"])

theorem OpcodeRow.addRegister (slave : Ident) (offset : Word) (resetValue : Word) : OpcodeRow.Statement (.addRegister slave offset resetValue) := by
  intro _
  rw [cmdField_encode]
  exact (by decide : OpcodeRow.rowsOf 0xC1 = ["ADD_REGISTER"])

theorem OpcodeRow.connectLineSec (dev : Ident) (id : DWord) : OpcodeRow.Statement (.connectLineSec dev id) := by
  intro _
  rw [cmdField_encode]
  exact (by decide : OpcodeRow.rowsOf 0xC2 = ["CONNECT_LINE_SEC"])

theorem OpcodeRow.connectLinePri (dev : Ident) (id : DWord) : OpcodeRow.Statement (.connectLinePri dev id) := by
  intro _
  rw [cmdField_encode]
  exact (by decide : OpcodeRow.rowsOf 0xC3 = ["CONNECT_LINE_PRI"])

theorem OpcodeRow.startAll : OpcodeRow.Statement .startAll := by
  intro _
  rw [cmdField_encode]
  exact (by decide : OpcodeRow.rowsOf 0xC8 = ["START_ALL"])

theorem OpcodeRow.haltAll : OpcodeRow.Statement .haltAll := by
  intro _
  rw [cmdField_encode]
  exact (by decide : OpcodeRow.rowsOf 0xC9 = ["HALT_ALL"])

end Sys2Proof.Laws
end

