-- ==== Sys2Proof/Tests/Slice0.lean ====
section
/-! SUPPORT. The model's own tests: ill-formed terms refused, words of the encoding tables decoded, one or two steps of each
operation with the values of the spec's examples, and a state and operands that meet the hypotheses of each statement. -/

namespace Sys2Proof.Tests

open Sys2Proof.Machine Sys2Proof.Safety Sys2Proof.Laws

/-! ### Well-formedness -/

theorem test_wf_probe_length_refused :
    (Instr.canread 0 0x100 3).wf = false ∧ (Instr.canwrite 0 0x100 0).wf = false ∧ (Instr.canread 0 0x100 8).wf = true := by
  decide

theorem test_wf_line_count_refused :
    ({ boardT with nSec := 0 } : Cfg).wf = false ∧ ({ boardT with nPri := 33 } : Cfg).wf = false := by
  decide

theorem test_wf_cascade_refused : ({ boardT with cascade := some 32 } : Cfg).wf = false := by
  decide

theorem test_wf_slaves_refused :
    ({ boardT with slaves := [(2, .tmr)], irqOut := [] } : Cfg).wf = false ∧
    ({ boardT with slaves := [(4, .sec)], irqOut := [] } : Cfg).wf = false := by
  decide

theorem test_wf_irq_out_refused :
    ({ boardT with irqOut := [(4, ⟨.pri, 31⟩)] } : Cfg).wf = false ∧
    ({ boardT with irqOut := [(4, ⟨.sec, 32⟩)] } : Cfg).wf = false := by
  decide

theorem test_wf_one_sided_override_refused :
    ({ boardG with slaves := [(7, .bank { rdOvr := [0x08] })] } : Cfg).wf = false ∧
    ({ boardG with slaves := [(7, .bank { wrOvr := [0x08], rdOvr := [0x0C] })] } : Cfg).wf = false ∧
    ({ boardG with slaves := [(7, .bank { rdOvr := [0x08], wrOvr := [0x08] })] } : Cfg).wf = true := by
  decide

theorem test_wf_boards : boardT.wf = true ∧ boardG.wf = true := by
  decide

/-! ### Decoding -/

/-- Words laid out from 30_encoding.md R71 and the rows of R74 (many of them the records of 95_test_vectors.md section 2.1): data reads. -/
theorem test_decode_reads :
    decodeTableWord 152 0x102000000 = some (.read8 0 0x102) ∧
    decodeTableWord 152 0x102000701 = some (.read16 7 0x102) ∧
    decodeTableWord 152 0x100000702 = some (.read32 7 0x100) ∧
    decodeTableWord 152 0xFFFFFFFFFFFFFFFFFFFF03 = some (.read64 0xFFFF 0xFFFFFFFFFFFFFFFF) ∧
    decodeTableWord 152 0x550000000000000101000009 = some (.read16u 0 0x101) ∧
    decodeTableWord 152 0x1000200112340A = some (.read32u 0x1234 0x10002001) ∧
    decodeTableWord 152 0x10100000B = some (.read64u 0 0x101) := by
  decide

/-- Words laid out from 30_encoding.md R71 and the rows of R74 (many of them the records of 95_test_vectors.md section 2.1): data writes, the value cut to its width. -/
theorem test_decode_writes :
    decodeTableWord 152 0x1AB0000000000000102000010 = some (.write8 0 0x102 0xAB) ∧
    decodeTableWord 152 0xBEEF0000000000000104000011 = some (.write16 0 0x104 0xBEEF) ∧
    decodeTableWord 152 0xFFAABBCCDD0000000010002000000112 = some (.write32 1 0x10002000 0xAABBCCDD) ∧
    decodeTableWord 152 0x1000000020000000010002000000013 = some (.write64 0 0x10002000 0x100000002) ∧
    decodeTableWord 152 0x9A1B20000000000000107000219 = some (.write16u 2 0x107 0xA1B2) ∧
    decodeTableWord 152 0xDDCCBBAA000000000000010900031A = some (.write32u 3 0x109 0xDDCCBBAA) ∧
    decodeTableWord 152 0x8877665544332211000000000000010100041B = some (.write64u 4 0x101 0x8877665544332211) := by
  decide

/-- Words laid out from 30_encoding.md R71 and the rows of R74 (many of them the records of 95_test_vectors.md section 2.1): probes and queries. -/
theorem test_decode_probes :
    decodeTableWord 152 0x100000040 = some (.canread 0 0x100 1) ∧
    decodeTableWord 152 0x101000141 = some (.canread 1 0x101 2) ∧
    decodeTableWord 152 0xFFFFFFFFFFFFFFFF0000000000001000001042 = some (.canread 0x10 0x1000 4) ∧
    decodeTableWord 152 0x10002008000043 = some (.canread 0 0x10002008 8) ∧
    decodeTableWord 152 0x100000050 = some (.canwrite 0 0x100 1) ∧
    decodeTableWord 152 0x101000051 = some (.canwrite 0 0x101 2) ∧
    decodeTableWord 152 0x1000000952 = some (.canwrite 9 0x1000 4) ∧
    decodeTableWord 152 0x10002008000053 = some (.canwrite 0 0x10002008 8) ∧
    decodeTableWord 152 0x70000000000000006000560 = some (.irqQ) ∧
    decodeTableWord 152 0x61 = some (.fiqQ) := by
  decide

/-- Words laid out from 30_encoding.md R71 and the rows of R74 (many of them the records of 95_test_vectors.md section 2.1): the device port, `value = c[0]`, `id` all 64 bits. -/
theorem test_decode_device :
    decodeTableWord 152 0x10000000000000003000580 = some (.setLineSec 5 3 true) ∧
    decodeTableWord 152 0x20000000100000003000580 = some (.setLineSec 5 0x100000003 false) ∧
    decodeTableWord 152 0x5000981 = some (.setLinePri 9 5 false) ∧
    decodeTableWord 152 0xFF0000000000000005000981 = some (.setLinePri 9 5 true) ∧
    decodeTableWord 152 0x10000000000000001000488 = some (.tick 4) := by
  decide

/-- Words laid out from 30_encoding.md R71 and the rows of R74 (many of them the records of 95_test_vectors.md section 2.1): the assembly port, `offset = b[31:0]`. -/
theorem test_decode_assembly :
    decodeTableWord 152 0x1000202000000000100020000004C0 = some (.addSlave 4 0x10002000 0x10002020) ∧
    decodeTableWord 152 0xDEADBEEF00000001000000100007C1 = some (.addRegister 7 0x10 0xDEADBEEF) ∧
    decodeTableWord 152 0x30005C2 = some (.connectLineSec 5 3) ∧
    decodeTableWord 152 0x100000000000000040004C3 = some (.connectLinePri 4 4) ∧
    decodeTableWord 152 0xC8 = some (.startAll) ∧
    decodeTableWord 152 0x100000000000000010001C9 = some (.haltAll) := by
  decide

/-- 95_test_vectors.md section 2.1: reserved codes that look plausible. -/
theorem test_decode_reserved :
    decodeTableWord 152 0x04 = none ∧ decodeTableWord 152 0x08 = none ∧ decodeTableWord 152 0x18 = none ∧
    decodeTableWord 152 0x20 = none ∧ decodeTableWord 152 0x44 = none ∧ decodeTableWord 152 0x48 = none ∧
    decodeTableWord 152 0x62 = none ∧ decodeTableWord 152 0x82 = none ∧ decodeTableWord 152 0x89 = none ∧
    decodeTableWord 152 0xC4 = none ∧ decodeTableWord 152 0xCA = none ∧ decodeTableWord 152 0xFF = none := by
  decide

/-- 95_test_vectors.md section 2.1: the bytes of `ADD_REGISTER 7, 0x10, 0xDEAD_BEEF`, and of a response. -/
theorem test_record_bytes :
    recordBytes (encode (.addRegister 7 0x10 0xDEADBEEF)) =
      [0xC1, 0x07, 0x00, 0x10, 0, 0, 0, 0, 0, 0, 0, 0xEF, 0xBE, 0xAD, 0xDE, 0, 0, 0, 0] ∧
    responseBytes (.ok (.word 0x44332211)) = [0x00, 0x11, 0x22, 0x33, 0x44, 0, 0, 0, 0] := by
  decide

/-- A byte string shorter than a record is rejected by name; a record's trailing bytes are handed on. -/
theorem test_decode_bytes :
    decodeBytes [0x60] = .error (.shortRecord 1) ∧
    decodeBytes (recordBytes (encode .startAll) ++ [0xAA]) = .ok (.startAll, [0xAA]) := by
  decide

/-- The state after one step. -/
def stepped (s : State) : State :=
  match step s with
  | .next t => t
  | .fault _ => s
  | .refused _ => s

/-- A presented record is what the next step runs, and the step takes it: `START_ALL` right after reset. -/
theorem test_step_from_reset :
    (stepped (State.reset.withFetchWord 152 0xC8)).phase = .run ∧
    (stepped (State.reset.withFetchWord 152 0xC8)).pending = [] ∧
    (stepped (State.reset.withFetchWord 152 0x04)).response = some (.refused .encoding) := by
  decide

/-! ### States the tests start from -/

/-- The RAM's range of `BOARD_T`. -/
def rRam : Range := ⟨0x00000000, 0x00010000, 1⟩

/-- The secondary's range of `BOARD_T`. -/
def rSec : Range := ⟨0x10000000, 0x10000010, 2⟩

/-- The primary's range of `BOARD_T`. -/
def rPri : Range := ⟨0x10001000, 0x10001020, 3⟩

/-- The timer's range of `BOARD_T`. -/
def rTmr : Range := ⟨0x10002000, 0x10002020, 4⟩

/-- The range table of `BOARD_T`. -/
def boardRanges : List Range := [rRam, rSec, rPri, rTmr, ⟨0x10003000, 0x10003020, 5⟩]

/-- `BOARD_T` after its assembly (45_board_assembly.md R225) in phase `p`, with these run states and presented requests. -/
def boardIn (p : Phase) (run : List (Nat × RunState)) (pending : List Request) : State :=
  { State.reset with
    phase := p
    ranges := boardRanges
    sec := ⟨0, [(3, .dev 5)]⟩
    pri := ⟨0, [(4, .dev 4), (5, .dev 9), (31, .secAggr)]⟩
    run := run
    shouldHalt := decide (p = .halted)
    pending := pending }

/-- `BOARD_T` wired, still in `CONFIG`. -/
def boardWired : State := boardIn .config [(4, .idle), (5, .idle)] []

/-- `BOARD_T` running. -/
def boardRun : State := boardIn .run [(4, .running), (5, .running)] []

/-- `BOARD_T` halted. -/
def boardHalted : State := boardIn .halted [(4, .halted), (5, .inert)] []

/-- `BOARD_T` after a configuration error. -/
def boardFailed : State := boardIn .failed [(4, .idle), (5, .idle)] []

/-- The bytes 11 22 33 44 55 66 77 88 99 AA at RAM offset 0x100. -/
def ramFilled : State :=
  ramWrite 1 0x100 [0x11, 0x22, 0x33, 0x44, 0x55, 0x66, 0x77, 0x88, 0x99, 0xAA] boardRun

/-- The board of section 2.5 of 95_test_vectors.md with a default handler, its bank bound, cells at 0x10 and 0x14. -/
def bankState (h : DefaultHandler) : State :=
  { State.resetOf { boardG with slaves := [(1, .ram 0x1000), (7, .bank { reserved := [0x20], dflt := h })] } with
    ranges := [⟨0x0000, 0x2000, 1⟩, ⟨0x4000, 0x4040, 7⟩]
    bank := [(cellKey 2 4, newCell "" 0), (cellKey 3 4, newCell "" 0), (cellKey 7 0x10, newCell "" 0xDEADBEEF),
      (cellKey 7 0x14, newCell "" 1)] }

/-- The state after one operation. -/
def after (i : Instr) (s : State) : State :=
  match exec i s with
  | .next t => t
  | .fault _ => s
  | .refused _ => s

/-- The response of one operation. -/
def answer (i : Instr) (s : State) : Option Response := (after i s).response

/-! ### One step of each operation -/

/-- 42_bus.md R142: `READ8 0x102` = 0x33; a bank does not serve 8 bits. -/
theorem test_read8 :
    answer (.read8 0 0x102) ramFilled = some (.ok (.byte 0x33)) ∧
    answer (.read8 0 0x10002000) ramFilled = some (.busFault .unsupportedAccess 0x10002000 1 .read 0) := by
  decide

/-- 42_bus.md R143. -/
theorem test_read16 :
    answer (.read16 0 0x102) ramFilled = some (.ok (.half 0x4433)) ∧
    answer (.read16 3 0x101) ramFilled = some (.busFault .unsupportedAccess 0x101 2 .read 3) := by
  decide

/-- 95_test_vectors.md sections 2.3 and 2.2. -/
theorem test_read32 :
    answer (.read32 0 0x104) ramFilled = some (.ok (.word 0x88776655)) ∧
    answer (.read32 0 0x102) ramFilled = some (.busFault .unsupportedAccess 0x102 4 .read 0) := by
  decide

/-- 95_test_vectors.md section 2.2, rows 6 and 7. -/
theorem test_read32_bank :
    answer (.read32 0 0x10002008) boardRun = some (.ok (.word 0xFFFFFFFF)) ∧
    answer (.read32 0 0x10000010) boardRun = some (.busFault .unmapped 0x10000010 4 .read 0) := by
  decide

/-- 95_test_vectors.md section 2.3. -/
theorem test_read64 : answer (.read64 0 0x100) ramFilled = some (.ok (.dword 0x8877665544332211)) := by
  decide

/-- 95_test_vectors.md section 2.4, rows 1 to 4. -/
theorem test_read64_bank :
    answer (.read64 0 0x10002000) (setCell 4 0x04 0x11223344 (setCell 4 0x00 0xAABBCCDD boardRun)) =
      some (.ok (.dword 0x11223344AABBCCDD)) ∧
    answer (.read64 0 0x10002008) boardRun = some (.busFault .unsupportedAccess 0x10002008 8 .read 0) := by
  decide

/-- 95_test_vectors.md section 2.3. -/
theorem test_read16u : answer (.read16u 0 0x107) ramFilled = some (.ok (.half 0x9988)) := by
  decide

/-- 95_test_vectors.md section 2.3. -/
theorem test_read32u : answer (.read32u 0 0x105) ramFilled = some (.ok (.word 0x99887766)) := by
  decide

/-- 95_test_vectors.md section 2.3. -/
theorem test_read64u : answer (.read64u 0 0x102) ramFilled = some (.ok (.dword 0xAA99887766554433)) := by
  decide

/-- 95_test_vectors.md section 2.3, writes, rows 1 and 2. -/
theorem test_write8 :
    answer (.write8 0 0x102 0xAB) ramFilled = some (.ok .none) ∧
    ramBytes (after (.write8 0 0x102 0xAB) ramFilled) 1 0x100 4 = [0x11, 0x22, 0xAB, 0x44] := by
  decide

/-- 95_test_vectors.md section 2.3, writes, rows 3 to 6. -/
theorem test_write16 :
    ramBytes (after (.write16 0 0x104 0xBEEF) ramFilled) 1 0x104 3 = [0xEF, 0xBE, 0x77] ∧
    answer (.write16 0 0x105 0) ramFilled = some (.busFault .unsupportedAccess 0x105 2 .write 0) := by
  decide

/-- 42_bus.md R141, R151: the four bytes, lowest address least significant. -/
theorem test_write32 :
    ramBytes (after (.write32 0 0x104 0xDDCCBBAA) ramFilled) 1 0x103 6 = [0x44, 0xAA, 0xBB, 0xCC, 0xDD, 0x99] := by
  decide

/-- 95_test_vectors.md section 2.7, rows 8 to 11: writing 1 to a set `PEND` clears it and lowers the line, writing 0 does
not. -/
theorem test_write32_tmr_stat :
    let s := setRaw .pri 4 true (setCell 4 0x0C 1 boardRun)
    cellValue (after (.write32 0 0x1000200C 0) s) 4 0x0C = 1 ∧ (after (.write32 0 0x1000200C 0) s).pri.raw = 0x10 ∧
    cellValue (after (.write32 0 0x1000200C 0xFFFFFFFF) s) 4 0x0C = 0 ∧
    (after (.write32 0 0x1000200C 0xFFFFFFFF) s).pri.raw = 0 := by
  decide

/-- 95_test_vectors.md section 2.3, row 18. -/
theorem test_write64 :
    ramBytes (after (.write64 0 0x100 0xFFFFFFFFFFFFFFFF) ramFilled) 1 0x100 9 =
      [0xFF, 0xFF, 0xFF, 0xFF, 0xFF, 0xFF, 0xFF, 0xFF, 0x99] := by
  decide

/-- 95_test_vectors.md section 2.5, rows 12 and 13: low word to 0x10, high word to 0x14. -/
theorem test_write64_bank :
    cellValue (after (.write64 0 0x4010 0x1122334455667788) (bankState .fault)) 7 0x10 = 0x55667788 ∧
    cellValue (after (.write64 0 0x4010 0x1122334455667788) (bankState .fault)) 7 0x14 = 0x11223344 := by
  decide

/-- 95_test_vectors.md section 2.3, row 7: 0x107 = 0xB2, 0x108 = 0xA1. -/
theorem test_write16u :
    ramBytes (after (.write16u 0 0x107 0xA1B2) ramFilled) 1 0x106 4 = [0x77, 0xB2, 0xA1, 0xAA] := by
  decide

/-- 95_test_vectors.md section 2.3, row 10, and the range end: `WRITE32U 0xFFFD` faults. -/
theorem test_write32u :
    ramBytes (after (.write32u 0 0x105 0xDDCCBBAA) ramFilled) 1 0x104 6 = [0x55, 0xAA, 0xBB, 0xCC, 0xDD, 0xAA] ∧
    answer (.write32u 0 0xFFFD 0) ramFilled = some (.busFault .unsupportedAccess 0xFFFD 4 .write 0) := by
  decide

/-- 95_test_vectors.md section 2.3, row 15: bytes 0x101 to 0x108. -/
theorem test_write64u :
    ramBytes (after (.write64u 0 0x101 0x8877665544332211) ramFilled) 1 0x100 10 =
      [0x11, 0x11, 0x22, 0x33, 0x44, 0x55, 0x66, 0x77, 0x88, 0xAA] := by
  decide

/-- 42_bus.md R158: the answer is that of the unaligned variant, and of direction R. -/
theorem test_canread :
    answer (.canread 0 0x101 8) boardRun = some (.ok (.flag true)) ∧
    answer (.canread 0 0xFFFD 4) boardRun = some (.ok (.flag false)) := by
  decide

/-- 42_bus.md R159: 64 bits at a timer's compare register are not whitelisted, at its counter they are. -/
theorem test_canwrite :
    answer (.canwrite 0 0x10002008 8) boardRun = some (.ok (.flag false)) ∧
    answer (.canwrite 0 0x10002000 8) boardRun = some (.ok (.flag true)) := by
  decide

/-- The table of 95_test_vectors.md section 2.6: `sec.raw` 8, `sec.enable` 8, `pri.enable` 0x8000_0000; and line 5 is FIQ
class. -/
theorem test_irqQ :
    let s := setRaw .sec 3 true (setCell 2 0x04 8 (setCell 3 0x04 0x80000000 boardRun))
    answer .irqQ s = some (.ok (.flag true)) ∧
    answer .irqQ (setRaw .pri 5 true (setCell 3 0x04 0x20 boardRun)) = some (.ok (.flag false)) := by
  decide

/-- The table of 95_test_vectors.md section 2.6: `pri.raw` 0x20, `pri.enable` 0x20; and line 4 is IRQ class. -/
theorem test_fiqQ :
    answer .fiqQ (setRaw .pri 5 true (setCell 3 0x04 0x20 boardRun)) = some (.ok (.flag true)) ∧
    answer .fiqQ (setRaw .pri 4 true (setCell 3 0x04 0x10 boardRun)) = some (.ok (.flag false)) := by
  decide

/-- 95_test_vectors.md section 2.6: `SET_LINE_SEC 5, 3, 1`; an id is all 64 bits. -/
theorem test_setLineSec :
    (after (.setLineSec 5 3 true) boardRun).sec.raw = 8 ∧
    answer (.setLineSec 5 0x100000003 true) boardRun = some (.refused .line) ∧
    answer (.setLineSec 4 3 true) boardRun = some (.refused .line) := by
  decide

/-- 95_test_vectors.md section 2.6: the cascade line has no device driver. -/
theorem test_setLinePri :
    (after (.setLinePri 9 5 true) boardRun).pri.raw = 0x20 ∧
    answer (.setLinePri 4 31 true) boardRun = some (.refused .line) := by
  decide

/-- 95_test_vectors.md section 2.7, rows 4 to 7: match at `CNT` = 0xFFFF_FFFF. -/
theorem test_tick_match :
    let t := after (.tick 4) (setCell 4 0x00 0xFFFFFFFE boardRun)
    cellValue t 4 0x00 = 0xFFFFFFFF ∧ cellValue t 4 0x0C = 1 ∧ t.pri.raw = 0x10 := by
  decide

/-- 95_test_vectors.md section 2.7, rows 18 to 20: the counter wraps, 0 < 1 is no match. -/
theorem test_tick_wraps :
    let t := after (.tick 4) (setCell 4 0x08 1 (setCell 4 0x04 0xFFFFFFFF (setCell 4 0x00 0xFFFFFFFF boardRun)))
    cellValue t 4 0x00 = 0 ∧ cellValue t 4 0x04 = 0 ∧ cellValue t 4 0x0C = 0 ∧ t.pri.raw = 0 := by
  decide

/-- 95_test_vectors.md section 2.2: touching ranges are legal, one shared byte is not. -/
theorem test_addSlave :
    (after (.addSlave 3 0x10000 0x20000) boardWired).ranges.length = 6 ∧
    answer (.addSlave 3 0xFFFF 0x20000) boardWired = some (.configError (.overlap 0xFFFF 0x20000 [rRam])) ∧
    (after (.addSlave 3 0xFFFF 0x20000) boardWired).phase = .failed := by
  decide

/-- 95_test_vectors.md section 2.5. -/
theorem test_addRegister :
    cellValue (after (.addRegister 7 0x18 0x12345678) (bankState .fault)) 7 0x18 = 0x12345678 ∧
    answer (.addRegister 7 0x12 0) (bankState .fault) = some (.configError (.misalignedOffset 7 0x12)) ∧
    answer (.addRegister 7 0x10 5) (bankState .fault) = some (.configError (.duplicateOffset 7 0x10)) := by
  decide

/-- 95_test_vectors.md section 2.6: a line is bound once. -/
theorem test_connectLineSec :
    lineDriver (after (.connectLineSec 5 7) boardWired) .sec 7 = some (.dev 5) ∧
    answer (.connectLineSec 6 3) boardWired = some (.configError (.dupLine .sec 3 (some (.dev 5)) 6)) := by
  decide

/-- 95_test_vectors.md section 2.6: the cascade line is bound at reset; line 32 does not exist. -/
theorem test_connectLinePri :
    lineDriver (after (.connectLinePri 77 0) boardWired) .pri 0 = some (.dev 77) ∧
    answer (.connectLinePri 6 31) boardWired = some (.configError (.dupLine .pri 31 (some .secAggr) 6)) ∧
    answer (.connectLinePri 6 32) boardWired = some (.configError (.lineOutOfRange .pri 32)) := by
  decide

/-- 42_bus.md R162: every autonomous device runs. -/
theorem test_startAll :
    (after .startAll boardWired).phase = .run ∧ runState (after .startAll boardWired) 4 = .running ∧
    answer .startAll boardHalted = some (.refused .phase) := by
  decide

/-- 42_bus.md R163: Inert stays Inert. -/
theorem test_haltAll :
    let t := after .haltAll { boardRun with run := [(4, .running), (5, .inert)] }
    t.phase = .halted ∧ t.shouldHalt = true ∧ runState t 4 = .halted ∧ runState t 5 = .inert := by
  decide

/-! ### The states above meet the invariants -/

theorem boardT_kind {d : Ident} {k : SlaveKind} (h : kindOf boardT d = some k) :
    (d = 1 ∧ k = .ram 0x10000) ∨ (d = 2 ∧ k = .sec) ∨ (d = 3 ∧ k = .pri) ∨ (d = 4 ∧ k = .tmr) ∨ (d = 5 ∧ k = .tmr) := by
  simp only [kindOf, boardT, idLookup] at h
  split at h
  · simp_all
  · split at h
    · simp_all
    · repeat' split at h
      all_goals simp_all

theorem boardT_autonomous {d : Ident} (h : autonomous boardT d = true) : d = 4 ∨ d = 5 := by
  unfold autonomous at h
  split at h
  · rcases boardT_kind ‹_› with ⟨h, _⟩ | ⟨_, h⟩ | ⟨_, h⟩ | ⟨h, _⟩ | ⟨h, _⟩ <;> simp_all
  · cases h
  · cases h
  · cases h
  · cases h

section
variable (p : Phase) (run : List (Nat × RunState)) (q : List Request)

theorem boardIn_bank : (boardIn p run q).bank = State.reset.bank := by
  simp only [boardIn]

theorem boardIn_cfg : (boardIn p run q).cfg = boardT := rfl

theorem boardIn_hasCell (sl : Ident) (off : Nat) : hasCell (boardIn p run q) sl off = hasCell State.reset sl off := by
  rw [hasCell, hasCell, boardIn_bank]

theorem boardIn_cellValue (sl : Ident) (off : Nat) :
    cellValue (boardIn p run q) sl off = cellValue State.reset sl off := by
  rw [cellValue, cellValue, boardIn_bank]

theorem reset_bank_wf : mapWf State.reset.bank = true := by
  decide

theorem boardIn_ranges : RangesDisjoint (boardIn p run q) := by
  show (∀ r ∈ boardRanges, r.low < r.high) ∧ boardRanges.Pairwise fun a b => a.high ≤ b.low ∨ b.high ≤ a.low
  decide

theorem boardIn_maps (h : mapWf run = true) : MapsCanonical (boardIn p run q) :=
  ⟨rfl, by rw [boardIn_bank]; exact reset_bank_wf, h, rfl, rfl, rfl⟩

theorem boardIn_lines : LinesWired (boardIn p run q) where
  raw_driven ctl id h := by cases ctl <;> simp [controller, boardIn] at h
  driver_legal ctl id drv h := by
    cases ctl
    · simp only [lineDriver, controller, boardIn, mapGet] at h
      split at h
      · subst id
        cases h
        exact .inr ⟨rfl, by simp [lineCount, boardIn, State.reset, State.resetOf, boardT], _, rfl⟩
      · cases h
    · simp only [lineDriver, controller, boardIn, mapGet] at h
      repeat' split at h
      · subst id
        cases h
        exact .inr ⟨by simp [isCascade, boardIn, State.reset, State.resetOf, boardT], by simp [lineCount, boardIn, State.reset, State.resetOf, boardT], _, rfl⟩
      · subst id
        cases h
        exact .inr ⟨by simp [isCascade, boardIn, State.reset, State.resetOf, boardT], by simp [lineCount, boardIn, State.reset, State.resetOf, boardT], _, rfl⟩
      · subst id
        cases h
        exact .inl ⟨rfl, rfl⟩
      · cases h
  cascade_wired id h := by
    have : (31 : Nat) = id := by simpa [isCascade, boardIn, State.reset, State.resetOf, boardT] using h
    subst this
    rfl

theorem boardIn_banks : BanksComplete (boardIn p run q) where
  fixed_cells sl k h := by
    rcases boardT_kind h with ⟨rfl, rfl⟩ | ⟨rfl, rfl⟩ | ⟨rfl, rfl⟩ | ⟨rfl, rfl⟩ | ⟨rfl, rfl⟩
    · simp only [boardIn_hasCell]
      decide
    · simp only [boardIn_hasCell]
      decide
    · simp only [boardIn_hasCell]
      decide
    · simp only [boardIn_hasCell]
      decide
    · simp only [boardIn_hasCell]
      decide
  offsets_aligned := by
    rw [boardIn_bank]
    decide

theorem boardIn_enables : EnablesMasked (boardIn p run q) := by
  intro _ ctl
  rw [enableOf, boardIn_cellValue, boardIn_cfg]
  cases ctl <;> decide

theorem boardIn_stats : StatsOneBit (boardIn p run q) := by
  intro d h
  rcases boardT_kind h with ⟨_, h⟩ | ⟨_, h⟩ | ⟨_, h⟩ | ⟨rfl, _⟩ | ⟨rfl, _⟩
  · cases h
  · cases h
  · cases h
  · rw [boardIn_cellValue]
    decide
  · rw [boardIn_cellValue]
    decide

theorem boardIn_noPend {d : Ident} (h : kindOf boardT d = some .tmr) : pend (boardIn p run q) d = false := by
  rcases boardT_kind h with ⟨_, h⟩ | ⟨_, h⟩ | ⟨_, h⟩ | ⟨rfl, _⟩ | ⟨rfl, _⟩
  · cases h
  · cases h
  · cases h
  · rw [pend, boardIn_cellValue]
    decide
  · rw [pend, boardIn_cellValue]
    decide

theorem boardIn_pend : PendMatchesLine (boardIn p run q) where
  raw_eq_pend d l h _ _ := by
    rw [boardIn_noPend p run q h]
    cases l.ctrl <;> simp [controller, boardIn]
  config_clear _ _ h := boardIn_noPend p run q h

end

theorem boardWired_lifecycle : LifecycleOk boardWired where
  halt_flag := by decide
  not_started _ d := by
    simp only [runState, boardWired, boardIn, mapGet]
    split
    · split at * <;> simp_all
    · rfl
  started h := by cases h
  stopped h := by cases h

theorem boardRun_lifecycle (q : List Request) : LifecycleOk (boardIn .run [(4, .running), (5, .running)] q) where
  halt_flag := by simp [boardIn]
  not_started h := by rcases h with h | h <;> cases h
  started _ d h := by rcases boardT_autonomous h with rfl | rfl <;> exact .inl rfl
  stopped h := by cases h

theorem boardHalted_lifecycle : LifecycleOk boardHalted where
  halt_flag := by decide
  not_started h := by rcases h with h | h <;> cases h
  started h := by cases h
  stopped _ d h := by
    rcases boardT_autonomous h with rfl | rfl
    · exact .inl rfl
    · exact .inr rfl

theorem boardRun_inv (q : List Request) : FabricInv (boardIn .run [(4, .running), (5, .running)] q) :=
  ⟨boardIn_ranges _ _ q, boardIn_maps _ _ q rfl, boardIn_lines _ _ q, boardIn_banks _ _ q, boardIn_enables _ _ q,
    boardIn_stats _ _ q, boardRun_lifecycle q⟩

/-! ### States and operands that meet the hypotheses of the statements, one theorem for each clause -/

theorem witness_DecodeEncodeRoundTrip :
    (Instr.canwrite 0xFFFF 0xFFFFFFFFFFFFFFFF 8).wf = true := by
  decide

/-- A state with one record presented. -/
def presented (q : Request) : State := { State.reset with pending := [q] }

theorem witness_ReservedCmdRefused_reserved :
    (presented 0xFF).pending = 0xFF :: [] ∧
    (∃ p ∈ reservedCmds, p.1 ≤ (cmdField 0xFF).toNat ∧ (cmdField 0xFF).toNat ≤ p.2) ∧
    (∃ p ∈ reservedCmds, p.1 ≤ (cmdField 0xCA).toNat ∧ (cmdField 0xCA).toNat ≤ p.2) := by
  decide

theorem witness_ReservedCmdRefused_code_point :
    (presented 0xC9).pending = 0xC9 :: [] ∧
    ¬ (∃ p ∈ reservedCmds, p.1 ≤ (cmdField 0xC9).toNat ∧ (cmdField 0xC9).toNat ≤ p.2) := by
  decide

theorem witness_StepRunsDecoded_next :
    (presented 0x488).pending = 0x488 :: [] := by
  decide

theorem witness_StepRunsDecoded_decodes :
    decodeRecord 0x488 = .ok (.tick 4) :=
  rfl

theorem witness_StepRunsDecoded_idle :
    State.reset.pending = [] := by
  decide

theorem witness_DecodeFindsRange :
    RangesDisjoint boardRun :=
  boardIn_ranges _ _ _

theorem witness_DecodeFindsRange_boundaries :
    decodeAddr boardRun.ranges 0x10001000 = some rPri ∧
    decodeAddr boardRun.ranges 0x1000101F = some rPri ∧
    decodeAddr boardRun.ranges 0x10001020 = none := by
  decide

theorem witness_UnmappedAccessFaults :
    accessOf (.read8 7 0x10000) = some ⟨7, 0x10000, 1, false, .read⟩ ∧
    boardRun.phase ≠ .failed ∧
    (∀ r ∈ boardRun.ranges, ¬ (r.low ≤ 0x10000 ∧ 0x10000 < r.high)) := by
  decide

theorem witness_RangeEndAndAlignmentFault_end :
    accessOf (.read32u 0 0xFFFD) = some ⟨0, 0xFFFD, 4, true, .read⟩ ∧
    boardRun.phase ≠ .failed ∧
    Mapped boardRun 0xFFFD rRam ∧
    rangeSize rRam < localOffset rRam 0xFFFD + 4 := by
  simp only [Mapped]
  decide

theorem witness_RangeEndAndAlignmentFault_alignment :
    accessOf (.write64 0 0x104 1) = some ⟨0, 0x104, 8, false, .write⟩ ∧
    boardRun.phase ≠ .failed ∧
    Mapped boardRun 0x104 rRam ∧
    localOffset rRam 0x104 % 8 ≠ 0 := by
  simp only [Mapped]
  decide

theorem witness_CapabilityDecidesAccess_no :
    accessOf (.read16 0 0x10000000) = some ⟨0, 0x10000000, 2, false, .read⟩ ∧
    InRange boardRun 0x10000000 2 rSec ∧
    localOffset rSec 0x10000000 % 2 = 0 ∧
    canAccess boardRun rSec.slave 0 (localOffset rSec 0x10000000) 2 .read = false := by
  simp only [InRange, Mapped]
  decide

theorem witness_CapabilityDecidesAccess_read :
    accessOf (.read32 0 0xFFFC) = some ⟨0, 0xFFFC, 4, false, .read⟩ ∧
    InRange boardRun 0xFFFC 4 rRam ∧
    localOffset rRam 0xFFFC % 4 = 0 ∧
    canAccess boardRun rRam.slave 0 (localOffset rRam 0xFFFC) 4 .read = true := by
  simp only [InRange, Mapped]
  decide

theorem witness_CapabilityDecidesAccess_write :
    accessOf (.write64u 0 0xFFF7 1) = some ⟨0, 0xFFF7, 8, true, .write⟩ ∧
    InRange boardRun 0xFFF7 8 rRam ∧
    canAccess boardRun rRam.slave 0 (localOffset rRam 0xFFF7) 8 .write = true := by
  simp only [InRange, Mapped]
  decide

theorem exec_after (i : Instr) (s : State) : exec i s = .next (after i s) := by
  cases i <;> rfl

theorem witness_BusFaultsArePrecise :
    exec (.read8 7 0x10000) boardRun = .next (after (.read8 7 0x10000) boardRun) ∧
    (after (.read8 7 0x10000) boardRun).response = some (.busFault .unmapped 0x10000 1 .read 7) := by
  exact ⟨exec_after _ _, by decide⟩

theorem witness_RefusalsChangeNothing :
    exec (.setLinePri 4 31 true) boardRun = .next (after (.setLinePri 4 31 true) boardRun) ∧
    (after (.setLinePri 4 31 true) boardRun).response = some (.refused .line) := by
  exact ⟨exec_after _ _, by decide⟩

theorem witness_ConfigErrorsOnlyFail :
    exec (.addSlave 1 0x5000 0x5000) boardWired = .next (after (.addSlave 1 0x5000 0x5000) boardWired) ∧
    (after (.addSlave 1 0x5000 0x5000) boardWired).response = some (.configError (.badRange 0x5000 0x5000)) := by
  exact ⟨exec_after _ _, by decide⟩

theorem witness_FailedRefusesEverything :
    boardFailed.phase = .failed := by
  decide

theorem witness_PhaseGate_config :
    LifecycleOk boardWired ∧ boardWired.phase = .config :=
  ⟨boardWired_lifecycle, rfl⟩

theorem witness_PhaseGate_halted :
    LifecycleOk boardHalted ∧ boardHalted.phase = .halted :=
  ⟨boardHalted_lifecycle, rfl⟩

theorem witness_MasterChangesNoResult :
    (∀ r ∈ boardRun.ranges, r.slave ∉ boardRun.cfg.masterFilter) := by
  decide

/-- A running board with one slave of kind `Other` bound, which also ticks. -/
def otherBoard : State :=
  { State.resetOf { boardG with slaves := [(6, .other)], tickers := [6] } with
    phase := .run, run := [(6, .running)], ranges := [⟨0x8000, 0x8100, 6⟩] }

/-- The range of the `Other` slave. -/
def rOther : Range := ⟨0x8000, 0x8100, 6⟩

theorem witness_MasterChangesNoResult_other :
    (∀ r ∈ otherBoard.ranges, r.slave ∉ otherBoard.cfg.masterFilter) ∧
    kindOf otherBoard.cfg rOther.slave = some .other := by
  decide

theorem witness_CapabilityDecidesAccess_other_read :
    accessOf (.read32 0 0x80FC) = some ⟨0, 0x80FC, 4, false, .read⟩ ∧
    InRange otherBoard 0x80FC 4 rOther ∧
    kindOf otherBoard.cfg rOther.slave = some .other ∧
    localOffset rOther 0x80FC % 4 = 0 := by
  simp only [InRange, Mapped]
  decide

theorem witness_CapabilityDecidesAccess_other_write :
    accessOf (.write8 0 0x8000 1) = some ⟨0, 0x8000, 1, false, .write⟩ ∧
    InRange otherBoard 0x8000 1 rOther ∧
    kindOf otherBoard.cfg rOther.slave = some .other ∧
    localOffset rOther 0x8000 % 1 = 0 := by
  simp only [InRange, Mapped]
  decide

/-- The capability of the `Other` slave is its open function and nothing else. -/
theorem witness_CapabilityDecidesAccess_other_capable (h : Config.supportsOther 6 0 0xFC 4 .read = true) :
    canAccess otherBoard rOther.slave 0 (localOffset rOther 0x80FC) 4 .read = true := by
  have hm : seenMaster otherBoard.cfg 6 0 = 0 := by decide
  have hk : kindOf otherBoard.cfg 6 = some .other := by decide
  simp only [canAccess, supports, rOther, hk, kindSupports, hm]
  simpa [isAligned, localOffset, masterAdmits, otherBoard, State.resetOf, boardG] using h

theorem witness_CapabilityDecidesAccess_misaligned :
    accessOf (.read64u 0 0xFFF7) = some ⟨0, 0xFFF7, 8, true, .read⟩ ∧
    InRange boardRun 0xFFF7 8 rRam ∧
    localOffset rRam 0xFFF7 % 8 ≠ 0 := by
  simp only [InRange, Mapped]
  decide

/-- The RAM's range of `bankState`, longer than its RAM. -/
def rRamG : Range := ⟨0x0000, 0x2000, 1⟩

/-- The bank's range of `bankState`. -/
def rBank : Range := ⟨0x4000, 0x4040, 7⟩

theorem witness_RamReads_fits :
    accessOf (.read32 0 0xFFFC) = some ⟨0, 0xFFFC, 4, false, .read⟩ ∧
    InRange boardRun 0xFFFC 4 rRam ∧
    PlainSlave boardRun rRam.slave (.ram 0x10000) ∧
    localOffset rRam 0xFFFC % 4 = 0 ∧
    localOffset rRam 0xFFFC + 4 ≤ 0x10000 := by
  simp only [InRange, Mapped, PlainSlave]
  decide

theorem witness_RamReads_past_end :
    accessOf (.read32u 0 0xFFD) = some ⟨0, 0xFFD, 4, true, .read⟩ ∧
    InRange (bankState .fault) 0xFFD 4 rRamG ∧
    PlainSlave (bankState .fault) rRamG.slave (.ram 0x1000) ∧
    0x1000 < localOffset rRamG 0xFFD + 4 := by
  simp only [InRange, Mapped, PlainSlave]
  decide

theorem witness_RamWrites_fits :
    accessOf (.write64u 0 0xFFF8 1) = some ⟨0, 0xFFF8, 8, true, .write⟩ ∧
    InRange boardRun 0xFFF8 8 rRam ∧
    PlainSlave boardRun rRam.slave (.ram 0x10000) ∧
    localOffset rRam 0xFFF8 + 8 ≤ 0x10000 := by
  simp only [InRange, Mapped, PlainSlave]
  decide

theorem witness_RamWrites_past_end :
    accessOf (.write8 0 0x1000 1) = some ⟨0, 0x1000, 1, false, .write⟩ ∧
    InRange (bankState .fault) 0x1000 1 rRamG ∧
    PlainSlave (bankState .fault) rRamG.slave (.ram 0x1000) ∧
    localOffset rRamG 0x1000 % 1 = 0 ∧
    0x1000 < localOffset rRamG 0x1000 + 1 := by
  simp only [InRange, Mapped, PlainSlave]
  decide

theorem witness_UnalignedIsBytewise_read :
    RangesDisjoint boardRun ∧
    accessOf (.read64u 0 0xFFF7) = some ⟨0, 0xFFF7, 8, true, .read⟩ ∧
    InRange boardRun 0xFFF7 8 rRam ∧
    localOffset rRam 0xFFF7 % 8 ≠ 0 ∧
    canAccess boardRun rRam.slave 0 (localOffset rRam 0xFFF7) 8 .read = true := by
  refine ⟨boardIn_ranges _ _ _, ?_⟩
  simp only [InRange, Mapped]
  decide

theorem witness_UnalignedIsBytewise_write :
    RangesDisjoint boardRun ∧
    accessOf (.write16u 0 1 2) = some ⟨0, 1, 2, true, .write⟩ ∧
    InRange boardRun 1 2 rRam ∧
    localOffset rRam 1 % 2 ≠ 0 ∧
    canAccess boardRun rRam.slave 0 (localOffset rRam 1) 2 .write = true := by
  refine ⟨boardIn_ranges _ _ _, ?_⟩
  simp only [InRange, Mapped]
  decide

theorem mapped_rRam {addr : DWord} {r : Range} (h : decodeAddr boardRun.ranges addr = some rRam)
    (hr : Mapped boardRun addr r) : r = rRam :=
  Option.some.inj (hr.symm.trans h)

theorem witness_AlignedVariantsAgree :
    (∀ r, Mapped boardRun 0xFFF8 r → localOffset r 0xFFF8 % 2 = 0) ∧
    (∀ r, Mapped boardRun 0xFFF8 r → localOffset r 0xFFF8 % 4 = 0) ∧
    ∀ r, Mapped boardRun 0xFFF8 r → localOffset r 0xFFF8 % 8 = 0 := by
  refine ⟨?_, ?_, ?_⟩ <;>
  · intro r h
    rw [mapped_rRam (by decide) h]
    decide

theorem witness_CanreadAnswers_refused :
    isAccessLen 8 = true ∧
    boardFailed.phase = .failed := by
  decide

theorem witness_CanreadAnswers_answers :
    isAccessLen 8 = true ∧
    boardRun.phase ≠ .failed ∧
    accessOf (.read64u 0 0xFFF8) = some ⟨0, 0xFFF8, 8, true, .read⟩ := by
  decide

theorem witness_CanwriteAnswers_refused :
    isAccessLen 1 = true ∧
    boardFailed.phase = .failed := by
  decide

theorem witness_CanwriteAnswers_answers :
    isAccessLen 4 = true ∧ boardRun.phase ≠ .failed ∧
    accessOf (.write32 0 0xFFFC 1) = some ⟨0, 0xFFFC, 4, false, .write⟩ ∧ BanksComplete boardRun ∧
    boardRun.cfg.banksOk = true ∧ RegistersAdded boardRun ∧
    ∀ r, Mapped boardRun 0xFFFC r → ∃ k, kindOf boardRun.cfg r.slave = some k ∧ k ≠ .other := by
  refine ⟨by decide, by decide, rfl, boardIn_banks _ _ _, by decide, fun sl b h => ?_, fun r h => ?_⟩
  · rcases boardT_kind h with ⟨_, h⟩ | ⟨_, h⟩ | ⟨_, h⟩ | ⟨_, h⟩ | ⟨_, h⟩ <;> cases h
  · rw [mapped_rRam (by decide) h]
    exact ⟨.ram 0x10000, rfl, by decide⟩

/-- A running board with a generic bank whose register 0x08 has a read override and no write override. -/
def flagBoard : State :=
  { State.resetOf { boardG with slaves := [(7, .bank { regs := [⟨0x08, "FLAG", 0⟩], rdOvr := [0x08] })] } with
    phase := .run, ranges := [⟨0x4000, 0x4040, 7⟩]
    bank := [(cellKey 2 4, newCell "" 0), (cellKey 3 4, newCell "" 0), (cellKey 7 8, newCell "FLAG" 0)] }

theorem flagBoard_kind {sl : Ident} {k : SlaveKind} (h : kindOf flagBoard.cfg sl = some k) :
    (sl = 2 ∧ k = .sec) ∨ (sl = 3 ∧ k = .pri) ∨
      (sl = 7 ∧ k = .bank { regs := [⟨0x08, "FLAG", 0⟩], rdOvr := [0x08] }) := by
  simp only [kindOf, flagBoard, State.resetOf, boardG, idLookup] at h
  split at h
  · exact .inl ⟨‹_›, (Option.some.inj h).symm⟩
  · split at h
    · exact .inr (.inl ⟨‹_›, (Option.some.inj h).symm⟩)
    · split at h
      · exact .inr (.inr ⟨Eq.symm ‹_›, (Option.some.inj h).symm⟩)
      · cases h

theorem witness_CanwriteAnswers_bank :
    flagBoard.phase ≠ .failed ∧ BanksComplete flagBoard ∧ flagBoard.cfg.banksOk = true ∧ RegistersAdded flagBoard ∧
    ∀ r, Mapped flagBoard 0x4008 r → ∃ k, kindOf flagBoard.cfg r.slave = some k ∧ k ≠ .other := by
  refine ⟨by decide, ⟨fun sl k h => ?_, by decide⟩, by decide, fun sl b h => ?_, fun r h => ?_⟩
  · rcases flagBoard_kind h with ⟨rfl, rfl⟩ | ⟨rfl, rfl⟩ | ⟨rfl, rfl⟩ <;> decide
  · rcases flagBoard_kind h with ⟨_, h⟩ | ⟨_, h⟩ | ⟨rfl, h⟩ <;> cases h
    intro g hg
    rw [List.mem_singleton.1 hg]
    exact ⟨by decide, newCell "FLAG" 0, by decide⟩
  · cases (Option.some.inj (h.symm.trans (by decide : decodeAddr flagBoard.ranges 0x4008 = some ⟨0x4000, 0x4040, 7⟩)))
    exact ⟨_, rfl, by decide⟩

theorem witness_OddProbeAnswersFalse :
    isAccessLen 3 = false ∧
    isAccessLen 0 = false ∧
    boardRun.phase ≠ .failed := by
  decide

theorem witness_BankWordReads_override :
    accessOf (.read32 0 0x10000000) = some ⟨0, 0x10000000, 4, false, .read⟩ ∧
    InRange boardRun 0x10000000 4 rSec ∧
    AdmittedSlave boardRun rSec.slave .sec 0 (localOffset rSec 0x10000000) 4 ∧
    isBankKind .sec = true ∧
    localOffset rSec 0x10000000 % 4 = 0 ∧
    bankClass boardRun rSec.slave .sec (localOffset rSec 0x10000000) .read = .override := by
  simp only [InRange, Mapped, AdmittedSlave]
  decide

theorem witness_BankWordReads_cell :
    accessOf (.read32 0 0x1000200C) = some ⟨0, 0x1000200C, 4, false, .read⟩ ∧
    InRange boardRun 0x1000200C 4 rTmr ∧
    AdmittedSlave boardRun rTmr.slave .tmr 0 (localOffset rTmr 0x1000200C) 4 ∧
    isBankKind .tmr = true ∧
    localOffset rTmr 0x1000200C % 4 = 0 ∧
    bankClass boardRun rTmr.slave .tmr (localOffset rTmr 0x1000200C) .read = .cell := by
  simp only [InRange, Mapped, AdmittedSlave]
  decide

theorem witness_BankWordReads_reserved :
    accessOf (.read32 0 0x1000101C) = some ⟨0, 0x1000101C, 4, false, .read⟩ ∧
    InRange boardRun 0x1000101C 4 rPri ∧
    AdmittedSlave boardRun rPri.slave .pri 0 (localOffset rPri 0x1000101C) 4 ∧
    isBankKind .pri = true ∧
    localOffset rPri 0x1000101C % 4 = 0 ∧
    bankClass boardRun rPri.slave .pri (localOffset rPri 0x1000101C) .read = .reserved := by
  simp only [InRange, Mapped, AdmittedSlave]
  decide

theorem witness_BankWordReads_default_zero :
    accessOf (.read32 0 0x4000) = some ⟨0, 0x4000, 4, false, .read⟩ ∧
    InRange (bankState .zero) 0x4000 4 rBank ∧
    AdmittedSlave (bankState .zero) rBank.slave (.bank { reserved := [0x20], dflt := .zero }) 0 (localOffset rBank 0x4000) 4 ∧
    isBankKind (.bank { reserved := [0x20], dflt := .zero }) = true ∧
    localOffset rBank 0x4000 % 4 = 0 ∧
    bankClass (bankState .zero) rBank.slave (.bank { reserved := [0x20], dflt := .zero }) (localOffset rBank 0x4000) .read = .dflt ∧
    ({ reserved := [0x20], dflt := .zero } : BankCfg).dflt = .zero := by
  simp only [InRange, Mapped, AdmittedSlave]
  decide

theorem witness_BankWordWrites_default_zero :
    accessOf (.write32 0 0x4000 5) = some ⟨0, 0x4000, 4, false, .write⟩ ∧
    InRange (bankState .zero) 0x4000 4 rBank ∧
    AdmittedSlave (bankState .zero) rBank.slave (.bank { reserved := [0x20], dflt := .zero }) 0 (localOffset rBank 0x4000) 4 ∧
    isBankKind (.bank { reserved := [0x20], dflt := .zero }) = true ∧
    localOffset rBank 0x4000 % 4 = 0 ∧
    bankClass (bankState .zero) rBank.slave (.bank { reserved := [0x20], dflt := .zero }) (localOffset rBank 0x4000) .write = .dflt ∧
    ({ reserved := [0x20], dflt := .zero } : BankCfg).dflt = .zero := by
  simp only [InRange, Mapped, AdmittedSlave]
  decide

theorem witness_BankWordReads_default_const :
    accessOf (.read32 0 0x4000) = some ⟨0, 0x4000, 4, false, .read⟩ ∧
    InRange (bankState (.const 0xCAFEF00D)) 0x4000 4 rBank ∧
    AdmittedSlave (bankState (.const 0xCAFEF00D)) rBank.slave (.bank { reserved := [0x20], dflt := (.const 0xCAFEF00D) }) 0 (localOffset rBank 0x4000) 4 ∧
    isBankKind (.bank { reserved := [0x20], dflt := (.const 0xCAFEF00D) }) = true ∧
    localOffset rBank 0x4000 % 4 = 0 ∧
    bankClass (bankState (.const 0xCAFEF00D)) rBank.slave (.bank { reserved := [0x20], dflt := (.const 0xCAFEF00D) }) (localOffset rBank 0x4000) .read = .dflt ∧
    ({ reserved := [0x20], dflt := (.const 0xCAFEF00D) } : BankCfg).dflt = (.const 0xCAFEF00D) := by
  simp only [InRange, Mapped, AdmittedSlave]
  decide

theorem witness_BankWordWrites_default_const :
    accessOf (.write32 0 0x4000 5) = some ⟨0, 0x4000, 4, false, .write⟩ ∧
    InRange (bankState (.const 0xCAFEF00D)) 0x4000 4 rBank ∧
    AdmittedSlave (bankState (.const 0xCAFEF00D)) rBank.slave (.bank { reserved := [0x20], dflt := (.const 0xCAFEF00D) }) 0 (localOffset rBank 0x4000) 4 ∧
    isBankKind (.bank { reserved := [0x20], dflt := (.const 0xCAFEF00D) }) = true ∧
    localOffset rBank 0x4000 % 4 = 0 ∧
    bankClass (bankState (.const 0xCAFEF00D)) rBank.slave (.bank { reserved := [0x20], dflt := (.const 0xCAFEF00D) }) (localOffset rBank 0x4000) .write = .dflt ∧
    ({ reserved := [0x20], dflt := (.const 0xCAFEF00D) } : BankCfg).dflt = (.const 0xCAFEF00D) := by
  simp only [InRange, Mapped, AdmittedSlave]
  decide

theorem witness_BankWordReads_default_fn :
    accessOf (.read32 0 0x4000) = some ⟨0, 0x4000, 4, false, .read⟩ ∧
    InRange (bankState .fn) 0x4000 4 rBank ∧
    AdmittedSlave (bankState .fn) rBank.slave (.bank { reserved := [0x20], dflt := .fn }) 0 (localOffset rBank 0x4000) 4 ∧
    isBankKind (.bank { reserved := [0x20], dflt := .fn }) = true ∧
    localOffset rBank 0x4000 % 4 = 0 ∧
    bankClass (bankState .fn) rBank.slave (.bank { reserved := [0x20], dflt := .fn }) (localOffset rBank 0x4000) .read = .dflt ∧
    ({ reserved := [0x20], dflt := .fn } : BankCfg).dflt = .fn := by
  simp only [InRange, Mapped, AdmittedSlave]
  decide

theorem witness_BankWordWrites_default_fn :
    accessOf (.write32 0 0x4000 5) = some ⟨0, 0x4000, 4, false, .write⟩ ∧
    InRange (bankState .fn) 0x4000 4 rBank ∧
    AdmittedSlave (bankState .fn) rBank.slave (.bank { reserved := [0x20], dflt := .fn }) 0 (localOffset rBank 0x4000) 4 ∧
    isBankKind (.bank { reserved := [0x20], dflt := .fn }) = true ∧
    localOffset rBank 0x4000 % 4 = 0 ∧
    bankClass (bankState .fn) rBank.slave (.bank { reserved := [0x20], dflt := .fn }) (localOffset rBank 0x4000) .write = .dflt ∧
    ({ reserved := [0x20], dflt := .fn } : BankCfg).dflt = .fn := by
  simp only [InRange, Mapped, AdmittedSlave]
  decide

theorem witness_BankWordReads_undecoded :
    accessOf (.read32 0 0x1000201C) = some ⟨0, 0x1000201C, 4, false, .read⟩ ∧
    InRange boardRun 0x1000201C 4 rTmr ∧
    AdmittedSlave boardRun rTmr.slave .tmr 0 (localOffset rTmr 0x1000201C) 4 ∧
    isBankKind .tmr = true ∧
    localOffset rTmr 0x1000201C % 4 = 0 ∧
    bankClass boardRun rTmr.slave .tmr (localOffset rTmr 0x1000201C) .read = .undecoded := by
  simp only [InRange, Mapped, AdmittedSlave]
  decide

/-- A running board with a generic bank that has an override at 0x08 in each direction. -/
def overrideBoard : State :=
  { State.resetOf { boardG with slaves := [(7, .bank { rdOvr := [0x08], wrOvr := [0x08] })] } with
    phase := .run, ranges := [⟨0x4000, 0x4040, 7⟩] }

theorem witness_BankWordReads_generic_override :
    accessOf (.read32 0 0x4008) = some ⟨0, 0x4008, 4, false, .read⟩ ∧
    InRange overrideBoard 0x4008 4 rBank ∧
    AdmittedSlave overrideBoard rBank.slave (.bank { rdOvr := [0x08], wrOvr := [0x08] }) 0 (localOffset rBank 0x4008) 4 ∧
    isBankKind (.bank { rdOvr := [0x08], wrOvr := [0x08] }) = true ∧
    localOffset rBank 0x4008 % 4 = 0 ∧
    bankClass overrideBoard rBank.slave (.bank { rdOvr := [0x08], wrOvr := [0x08] }) (localOffset rBank 0x4008) .read = .override := by
  simp only [InRange, Mapped, AdmittedSlave]
  decide

theorem witness_BankWordWrites_generic_override :
    accessOf (.write32 0 0x4008 1) = some ⟨0, 0x4008, 4, false, .write⟩ ∧
    InRange overrideBoard 0x4008 4 rBank ∧
    AdmittedSlave overrideBoard rBank.slave (.bank { rdOvr := [0x08], wrOvr := [0x08] }) 0 (localOffset rBank 0x4008) 4 ∧
    isBankKind (.bank { rdOvr := [0x08], wrOvr := [0x08] }) = true ∧
    localOffset rBank 0x4008 % 4 = 0 ∧
    bankClass overrideBoard rBank.slave (.bank { rdOvr := [0x08], wrOvr := [0x08] }) (localOffset rBank 0x4008) .write = .override := by
  simp only [InRange, Mapped, AdmittedSlave]
  decide

theorem witness_BankWordWrites_override :
    accessOf (.write32 0 0x1000200C 1) = some ⟨0, 0x1000200C, 4, false, .write⟩ ∧
    InRange boardRun 0x1000200C 4 rTmr ∧
    AdmittedSlave boardRun rTmr.slave .tmr 0 (localOffset rTmr 0x1000200C) 4 ∧
    isBankKind .tmr = true ∧
    localOffset rTmr 0x1000200C % 4 = 0 ∧
    bankClass boardRun rTmr.slave .tmr (localOffset rTmr 0x1000200C) .write = .override := by
  simp only [InRange, Mapped, AdmittedSlave]
  decide

theorem witness_BankWordWrites_cell :
    accessOf (.write32 0 0x10002014 1) = some ⟨0, 0x10002014, 4, false, .write⟩ ∧
    InRange boardRun 0x10002014 4 rTmr ∧
    AdmittedSlave boardRun rTmr.slave .tmr 0 (localOffset rTmr 0x10002014) 4 ∧
    isBankKind .tmr = true ∧
    localOffset rTmr 0x10002014 % 4 = 0 ∧
    bankClass boardRun rTmr.slave .tmr (localOffset rTmr 0x10002014) .write = .cell := by
  simp only [InRange, Mapped, AdmittedSlave]
  decide

theorem witness_BankWordWrites_reserved :
    accessOf (.write32 0 0x10002010 1) = some ⟨0, 0x10002010, 4, false, .write⟩ ∧
    InRange boardRun 0x10002010 4 rTmr ∧
    AdmittedSlave boardRun rTmr.slave .tmr 0 (localOffset rTmr 0x10002010) 4 ∧
    isBankKind .tmr = true ∧
    localOffset rTmr 0x10002010 % 4 = 0 ∧
    bankClass boardRun rTmr.slave .tmr (localOffset rTmr 0x10002010) .write = .reserved := by
  simp only [InRange, Mapped, AdmittedSlave]
  decide

theorem witness_BankWordWrites_undecoded :
    accessOf (.write32 0 0x10002018 1) = some ⟨0, 0x10002018, 4, false, .write⟩ ∧
    InRange boardRun 0x10002018 4 rTmr ∧
    AdmittedSlave boardRun rTmr.slave .tmr 0 (localOffset rTmr 0x10002018) 4 ∧
    isBankKind .tmr = true ∧
    localOffset rTmr 0x10002018 % 4 = 0 ∧
    bankClass boardRun rTmr.slave .tmr (localOffset rTmr 0x10002018) .write = .undecoded := by
  simp only [InRange, Mapped, AdmittedSlave]
  decide

theorem witness_BankRoundTrip_cell :
    InRange boardRun 0x10002008 4 rTmr ∧
    PlainSlave boardRun rTmr.slave .tmr ∧
    isBankKind .tmr = true ∧
    localOffset rTmr 0x10002008 % 4 = 0 ∧
    bankClass boardRun rTmr.slave .tmr (localOffset rTmr 0x10002008) .read = .cell ∧
    bankClass boardRun rTmr.slave .tmr (localOffset rTmr 0x10002008) .write = .cell := by
  simp only [InRange, Mapped, PlainSlave]
  decide

theorem witness_BankRoundTrip_tmr_flag :
    InRange boardRun 0x10002014 4 rTmr ∧
    PlainSlave boardRun rTmr.slave .tmr ∧
    isBankKind .tmr = true ∧
    localOffset rTmr 0x10002014 % 4 = 0 ∧
    hasCell boardRun rTmr.slave (localOffset rTmr 0x10002014) = true ∧
    localOffset rTmr 0x10002014 = 0x14 := by
  simp only [InRange, Mapped, PlainSlave]
  decide

theorem witness_BankRoundTrip_sec_enable :
    InRange boardRun 0x10000004 4 rSec ∧
    PlainSlave boardRun rSec.slave .sec ∧
    isBankKind .sec = true ∧
    localOffset rSec 0x10000004 % 4 = 0 ∧
    hasCell boardRun rSec.slave (localOffset rSec 0x10000004) = true ∧
    localOffset rSec 0x10000004 = 0x04 := by
  simp only [InRange, Mapped, PlainSlave]
  decide

theorem witness_BankRoundTrip_pri_enable :
    InRange boardRun 0x10001004 4 rPri ∧
    PlainSlave boardRun rPri.slave .pri ∧
    isBankKind .pri = true ∧
    localOffset rPri 0x10001004 % 4 = 0 ∧
    hasCell boardRun rPri.slave (localOffset rPri 0x10001004) = true ∧
    localOffset rPri 0x10001004 = 0x04 := by
  simp only [InRange, Mapped, PlainSlave]
  decide

theorem witness_BankRoundTrip_tmr_stat :
    InRange boardRun 0x1000200C 4 rTmr ∧
    PlainSlave boardRun rTmr.slave .tmr ∧
    isBankKind .tmr = true ∧
    localOffset rTmr 0x1000200C % 4 = 0 ∧
    hasCell boardRun rTmr.slave (localOffset rTmr 0x1000200C) = true ∧
    localOffset rTmr 0x1000200C = 0x0C := by
  simp only [InRange, Mapped, PlainSlave]
  decide

theorem witness_FixedRegisterReads_sec :
    PlainSlave boardRun rSec.slave .sec ∧
    accessOf (.read32 0 0x10000000) = some ⟨0, 0x10000000, 4, false, .read⟩ ∧
    InRange boardRun 0x10000000 4 rSec ∧
    localOffset rSec 0x10000000 = 0 ∧
    accessOf (.read32 0 0x10000008) = some ⟨0, 0x10000008, 4, false, .read⟩ ∧
    InRange boardRun 0x10000008 4 rSec ∧
    localOffset rSec 0x10000008 = 8 := by
  simp only [InRange, Mapped, PlainSlave]
  decide

theorem witness_FixedRegisterReads_pri :
    PlainSlave boardRun rPri.slave .pri ∧
    accessOf (.read32 0 0x10001000) = some ⟨0, 0x10001000, 4, false, .read⟩ ∧
    InRange boardRun 0x10001000 4 rPri ∧
    localOffset rPri 0x10001000 = 0 ∧
    accessOf (.read32 0 0x10001008) = some ⟨0, 0x10001008, 4, false, .read⟩ ∧
    InRange boardRun 0x10001008 4 rPri ∧
    localOffset rPri 0x10001008 = 8 ∧
    accessOf (.read32 0 0x1000100C) = some ⟨0, 0x1000100C, 4, false, .read⟩ ∧
    InRange boardRun 0x1000100C 4 rPri ∧
    localOffset rPri 0x1000100C = 12 ∧
    accessOf (.read32 0 0x10001010) = some ⟨0, 0x10001010, 4, false, .read⟩ ∧
    InRange boardRun 0x10001010 4 rPri ∧
    localOffset rPri 0x10001010 = 16 := by
  simp only [InRange, Mapped, PlainSlave]
  decide

theorem witness_FixedRegisterReads_tmr :
    PlainSlave boardRun rTmr.slave .tmr ∧
    accessOf (.read32 0 0x10002014) = some ⟨0, 0x10002014, 4, false, .read⟩ ∧
    InRange boardRun 0x10002014 4 rTmr ∧
    localOffset rTmr 0x10002014 = 20 := by
  simp only [InRange, Mapped, PlainSlave]
  decide

theorem witness_ReadOnlyWritesDropped_sec :
    PlainSlave boardRun rSec.slave .sec ∧
    accessOf (.write32 0 0x10000000 5) = some ⟨0, 0x10000000, 4, false, .write⟩ ∧
    InRange boardRun 0x10000000 4 rSec ∧
    localOffset rSec 0x10000000 = 0 ∧
    accessOf (.write32 0 0x10000008 5) = some ⟨0, 0x10000008, 4, false, .write⟩ ∧
    InRange boardRun 0x10000008 4 rSec ∧
    localOffset rSec 0x10000008 = 8 := by
  simp only [InRange, Mapped, PlainSlave]
  decide

theorem witness_ReadOnlyWritesDropped_pri :
    PlainSlave boardRun rPri.slave .pri ∧
    accessOf (.write32 0 0x10001000 5) = some ⟨0, 0x10001000, 4, false, .write⟩ ∧
    InRange boardRun 0x10001000 4 rPri ∧
    localOffset rPri 0x10001000 = 0 ∧
    accessOf (.write32 0 0x10001008 5) = some ⟨0, 0x10001008, 4, false, .write⟩ ∧
    InRange boardRun 0x10001008 4 rPri ∧
    localOffset rPri 0x10001008 = 8 ∧
    accessOf (.write32 0 0x1000100C 5) = some ⟨0, 0x1000100C, 4, false, .write⟩ ∧
    InRange boardRun 0x1000100C 4 rPri ∧
    localOffset rPri 0x1000100C = 12 ∧
    accessOf (.write32 0 0x10001010 5) = some ⟨0, 0x10001010, 4, false, .write⟩ ∧
    InRange boardRun 0x10001010 4 rPri ∧
    localOffset rPri 0x10001010 = 16 := by
  simp only [InRange, Mapped, PlainSlave]
  decide

theorem witness_EnableMaskWrites_sec :
    accessOf (.write32 0 0x10000004 1) = some ⟨0, 0x10000004, 4, false, .write⟩ ∧
    InRange boardRun 0x10000004 4 rSec ∧
    rSec.slave = controllerId boardRun.cfg .sec ∧
    PlainSlave boardRun rSec.slave (ctrlKind .sec) ∧
    localOffset rSec 0x10000004 = 0x04 ∧
    hasCell boardRun rSec.slave 0x04 = true := by
  simp only [InRange, Mapped, PlainSlave]
  decide

theorem witness_EnableMaskWrites_pri :
    accessOf (.write32 0 0x10001004 1) = some ⟨0, 0x10001004, 4, false, .write⟩ ∧
    InRange boardRun 0x10001004 4 rPri ∧
    rPri.slave = controllerId boardRun.cfg .pri ∧
    PlainSlave boardRun rPri.slave (ctrlKind .pri) ∧
    localOffset rPri 0x10001004 = 0x04 ∧
    hasCell boardRun rPri.slave 0x04 = true := by
  simp only [InRange, Mapped, PlainSlave]
  decide

theorem witness_EnableMaskWrites_only :
    exec (.write32 0 0x10001004 1) boardRun = .next (after (.write32 0 0x10001004 1) boardRun) ∧
    enableOf (after (.write32 0 0x10001004 1) boardRun) .pri ≠ enableOf boardRun .pri := by
  exact ⟨exec_after _ _, by decide⟩

theorem witness_SubwordBankAccessFaults_byte :
    accessOf (.read8 0 0x10002000) = some ⟨0, 0x10002000, 1, false, .read⟩ ∧
    boardRun.phase ≠ .failed ∧
    Mapped boardRun 0x10002000 rTmr ∧
    kindOf boardRun.cfg rTmr.slave = some .tmr ∧
    isBankKind .tmr = true := by
  simp only [Mapped]
  decide

theorem witness_SubwordBankAccessFaults_half :
    accessOf (.write16u 0 0x10000001 1) = some ⟨0, 0x10000001, 2, true, .write⟩ ∧
    Mapped boardRun 0x10000001 rSec ∧
    kindOf boardRun.cfg rSec.slave = some .sec ∧
    isBankKind .sec = true := by
  simp only [Mapped]
  decide

theorem witness_SubwordBankAccessFaults_misaligned :
    accessOf (.read32u 0 0x10001002) = some ⟨0, 0x10001002, 4, true, .read⟩ ∧
    Mapped boardRun 0x10001002 rPri ∧
    kindOf boardRun.cfg rPri.slave = some .pri ∧
    isBankKind .pri = true ∧
    localOffset rPri 0x10001002 % 4 ≠ 0 := by
  simp only [Mapped]
  decide

theorem witness_BankDoubleWords_read :
    accessOf (.read64 0 0x10002000) = some ⟨0, 0x10002000, 8, false, .read⟩ ∧
    InRange boardRun 0x10002000 8 rTmr ∧
    PlainSlave boardRun rTmr.slave .tmr ∧
    isBankKind .tmr = true ∧
    0 = localOffset rTmr 0x10002000 ∧
    admits64 .tmr 0 ∧
    bankClass boardRun rTmr.slave .tmr 0 .read ≠ .undecoded ∧
    bankClass boardRun rTmr.slave .tmr 4 .read ≠ .undecoded := by
  simp only [InRange, Mapped, PlainSlave, admits64]
  decide

theorem witness_BankDoubleWords_write :
    accessOf (.write64u 0 0x10002000 1) = some ⟨0, 0x10002000, 8, true, .write⟩ ∧
    InRange boardRun 0x10002000 8 rTmr ∧
    PlainSlave boardRun rTmr.slave .tmr ∧
    isBankKind .tmr = true ∧
    0 = localOffset rTmr 0x10002000 ∧
    admits64 .tmr 0 ∧
    bankClass boardRun rTmr.slave .tmr 0 .write ≠ .undecoded ∧
    bankClass boardRun rTmr.slave .tmr 4 .write ≠ .undecoded := by
  simp only [InRange, Mapped, PlainSlave, admits64]
  decide

theorem witness_BankDoubleWords_no_whitelist :
    accessOf (.read64 0 0x4010) = some ⟨0, 0x4010, 8, false, .read⟩ ∧
    InRange (bankState .fault) 0x4010 8 rBank ∧
    PlainSlave (bankState .fault) rBank.slave (.bank { reserved := [0x20], dflt := .fault }) ∧
    0x10 = localOffset rBank 0x4010 ∧
    ({ reserved := [0x20] } : BankCfg).wl64 = none ∧
    bankClass (bankState .fault) rBank.slave (.bank { reserved := [0x20], dflt := .fault }) 0x10 .read ≠ .undecoded ∧
    bankClass (bankState .fault) rBank.slave (.bank { reserved := [0x20], dflt := .fault }) 0x14 .read ≠ .undecoded := by
  simp only [InRange, Mapped, PlainSlave]
  decide

theorem witness_BankDoubleWords_not_whitelisted :
    accessOf (.read64 0 0x10002008) = some ⟨0, 0x10002008, 8, false, .read⟩ ∧
    InRange boardRun 0x10002008 8 rTmr ∧
    PlainSlave boardRun rTmr.slave .tmr ∧
    isBankKind .tmr = true ∧
    8 = localOffset rTmr 0x10002008 ∧
    ¬ admits64 .tmr 8 := by
  simp only [InRange, Mapped, PlainSlave, admits64]
  decide

theorem witness_BankDoubleWords_fault :
    accessOf (.read64 0 0x4018) = some ⟨0, 0x4018, 8, false, .read⟩ ∧
    InRange (bankState .fault) 0x4018 8 rBank ∧
    PlainSlave (bankState .fault) rBank.slave (.bank { reserved := [0x20], dflt := .fault }) ∧
    0x18 = localOffset rBank 0x4018 ∧
    bankClass (bankState .fault) rBank.slave (.bank { reserved := [0x20], dflt := .fault }) 0x18 .read = .undecoded := by
  simp only [InRange, Mapped, PlainSlave]
  decide

theorem witness_ReadsHaveNoSideEffect_read :
    boardRun.phase ≠ .failed ∧ exec (.read8 0 0xFFFF) boardRun = .next (after (.read8 0 0xFFFF) boardRun) ∧
    accessOf (.read8 0 0xFFFF) = some ⟨0, 0xFFFF, 1, false, .read⟩ ∧
    ∀ r, Mapped boardRun 0xFFFF r → ∃ k, kindOf boardRun.cfg r.slave = some k ∧
      (k = .sec ∨ k = .pri ∨ k = .tmr ∨ ∃ size, k = .ram size) := by
  refine ⟨by decide, exec_after _ _, rfl, fun r h => ?_⟩
  rw [mapped_rRam (by decide) h]
  exact ⟨.ram 0x10000, rfl, .inr (.inr (.inr ⟨_, rfl⟩))⟩

theorem witness_ReadsHaveNoSideEffect_probe :
    exec (.canread 0 0x100 8) boardRun = .next (after (.canread 0 0x100 8) boardRun) ∧
    boardRun.phase ≠ .failed := by
  exact ⟨exec_after _ _, by decide⟩

theorem witness_ReadsHaveNoSideEffect_query :
    exec (.irqQ) boardRun = .next (after (.irqQ) boardRun) ∧
    boardRun.phase ≠ .failed := by
  exact ⟨exec_after _ _, by decide⟩

theorem witness_DeviceIsolation :
    exec (.tick 4) boardRun = .next (after (.tick 4) boardRun) ∧ ¬ actsOn boardRun (.tick 4) 5 ∧
    drives boardRun 5 .sec 3 = true := by
  refine ⟨exec_after _ _, ?_, by decide⟩
  rintro (h | ⟨a, r, h, -⟩)
  · cases h
  · cases h

theorem witness_QueriesReportOutputs_refused :
    boardFailed.cfg.lineCountsOk = true ∧
    boardFailed.phase = .failed := by
  decide

theorem witness_QueriesReportOutputs_answers :
    boardRun.cfg.lineCountsOk = true ∧
    boardRun.phase ≠ .failed := by
  decide

theorem witness_SecondaryAggregate :
    boardRun.cfg.lineCountsOk = true ∧ LinesWired boardRun ∧ lineDriver boardRun .sec 31 = none :=
  ⟨by decide, boardIn_lines _ _ _, by decide⟩

theorem witness_SecondaryAggregate_unconnected :
    exec (.setLineSec 5 3 true) boardRun = .next (after (.setLineSec 5 3 true) boardRun) ∧
    lineDriver boardRun .sec 31 = none ∧ boardRun.sec.raw.getLsbD 31 = false ∧
    (after (.setLineSec 5 3 true) boardRun).sec.raw.getLsbD 3 = true :=
  ⟨exec_after _ _, by decide⟩

theorem witness_SetLineSecEffect_refused :
    boardFailed.cfg.lineCountsOk = true ∧
    boardFailed.phase = .failed := by
  decide

theorem witness_SetLineSecEffect_line :
    boardRun.cfg.lineCountsOk = true ∧
    boardRun.phase ≠ .failed ∧
    ¬ ((32#64).toNat < boardRun.cfg.nSec ∧ lineDriver boardRun .sec (32#64).toNat = some (.dev 5)) := by
  decide

theorem witness_SetLineSecEffect_sets :
    boardRun.cfg.lineCountsOk = true ∧
    boardRun.phase ≠ .failed ∧
    (3#64).toNat < boardRun.cfg.nSec ∧
    lineDriver boardRun .sec (3#64).toNat = some (.dev 5) := by
  decide

theorem witness_SetLinePriEffect_refused :
    boardFailed.cfg.lineCountsOk = true ∧
    boardFailed.phase = .failed := by
  decide

theorem witness_SetLinePriEffect_line :
    boardRun.cfg.lineCountsOk = true ∧
    boardRun.phase ≠ .failed ∧
    boardRun.cfg.cascade = some (31#64).toNat ∧
    ¬ ((32#64).toNat < boardRun.cfg.nPri) := by
  decide

theorem witness_SetLinePriEffect_sets :
    boardRun.cfg.lineCountsOk = true ∧
    boardRun.phase ≠ .failed ∧
    boardRun.cfg.cascade ≠ some (5#64).toNat ∧
    (5#64).toNat < boardRun.cfg.nPri ∧
    lineDriver boardRun .pri (5#64).toNat = some (.dev 9) := by
  decide

theorem witness_LineStateTransitions_set :
    exec (setLineOp .pri 9 5 true) boardRun = .next (after (setLineOp .pri 9 5 true) boardRun) ∧
    boardRun.cfg.lineCountsOk = true ∧
    (after (setLineOp .pri 9 5 true) boardRun).response = some (.ok .none) ∧
    31 < lineCount boardRun.cfg .sec ∧
    isCascade boardRun.cfg .pri 5 = false := by
  exact ⟨exec_after _ _, by decide⟩

theorem witness_LineStateTransitions_enable_sec :
    boardRun.cfg.lineCountsOk = true ∧
    accessOf (.write32u 0 0x10000004 1) = some ⟨0, 0x10000004, 4, true, .write⟩ ∧
    InRange boardRun 0x10000004 4 rSec ∧
    rSec.slave = controllerId boardRun.cfg .sec ∧
    PlainSlave boardRun rSec.slave (ctrlKind .sec) ∧
    localOffset rSec 0x10000004 = 0x04 ∧
    hasCell boardRun rSec.slave 0x04 = true := by
  simp only [InRange, Mapped, PlainSlave]
  decide

theorem witness_LineStateTransitions_enable_pri :
    boardRun.cfg.lineCountsOk = true ∧
    accessOf (.write32u 0 0x10001004 1) = some ⟨0, 0x10001004, 4, true, .write⟩ ∧
    InRange boardRun 0x10001004 4 rPri ∧
    rPri.slave = controllerId boardRun.cfg .pri ∧
    PlainSlave boardRun rPri.slave (ctrlKind .pri) ∧
    localOffset rPri 0x10001004 = 0x04 ∧
    hasCell boardRun rPri.slave 0x04 = true := by
  simp only [InRange, Mapped, PlainSlave]
  decide

/-- Lines 4 and 5 of the primary asserted and enabled: the row of 95_test_vectors.md section 2.6 with `irq_id` 4 and
`fiq_id` 5. -/
def bothLines : State := setRaw .pri 5 true (setRaw .pri 4 true (setCell 3 0x04 0x30 boardRun))

theorem witness_WinnersAgreeWithOutputs :
    irqId bothLines = some 4 ∧
    fiqId bothLines = some 5 ∧
    bothLines.cfg.prio = .smallest := by
  decide

theorem witness_RawChangesOnlyByDriver :
    exec (.setLinePri 9 5 true) boardRun = .next (after (.setLinePri 9 5 true) boardRun) ∧
    (controller (after (.setLinePri 9 5 true) boardRun) .pri).raw.getLsbD 5 ≠ (controller boardRun .pri).raw.getLsbD 5 := by
  exact ⟨exec_after _ _, by decide⟩

theorem witness_TimerTick :
    boardRun.phase ≠ .failed ∧
    kindOf boardRun.cfg 4 = some .tmr ∧
    runState boardRun 4 = .running ∧
    devErrorHolds boardRun.cfg 4 (devView boardRun 4) = false ∧
    BanksComplete boardRun ∧
    boardRun.cfg.lineCountsOk = true := by
  refine ⟨by decide, by decide, by decide, by decide, boardIn_banks _ _ _, by decide⟩

theorem witness_CounterReadIsWhole :
    accessOf (.read64 0 0x10002000) = some ⟨0, 0x10002000, 8, false, .read⟩ ∧ InRange boardRun 0x10002000 8 rTmr ∧
    PlainSlave boardRun rTmr.slave .tmr ∧ localOffset rTmr 0x10002000 = 0 ∧ BanksComplete boardRun :=
  ⟨rfl, ⟨by decide, by rw [Mapped]; decide, by decide⟩, ⟨by decide, by decide⟩, by decide, boardIn_banks _ _ _⟩

theorem witness_CounterReadIsWhole_tick :
    exec (.tick 4) boardRun = .next (after (.tick 4) boardRun) ∧
    (after (.tick 4) boardRun).response = some (.ok .none) ∧ runState (after (.tick 4) boardRun) 4 = .running :=
  ⟨exec_after _ _, by decide⟩

theorem witness_TickRefusedUnlessRunning_phase :
    boardFailed.phase = .failed := by
  decide

theorem witness_TickRefusedUnlessRunning_device :
    boardRun.phase ≠ .failed ∧
    autonomous boardRun.cfg 9 = false ∧
    boardHalted.phase ≠ .failed ∧
    runState boardHalted 4 ≠ .running := by
  decide

theorem witness_TickRefusedUnlessRunning_kinds :
    kindOf boardRun.cfg 1 = some (.ram 0x10000) ∧
    kindOf boardRun.cfg 2 = some .sec ∧
    kindOf boardRun.cfg 3 = some .pri := by
  decide

theorem witness_OpenDeviceTick :
    otherBoard.phase ≠ .failed ∧
    kindOf otherBoard.cfg 6 ≠ some .tmr ∧
    autonomous otherBoard.cfg 6 = true ∧
    runState otherBoard 6 = .running ∧
    devErrorHolds otherBoard.cfg 6 (devView otherBoard 6) = false ∧
    (2#16) ≠ 6 ∧
    drives otherBoard 6 .pri 0 = false := by
  decide

/-- `BOARD_T` running, the error predicate of device 4 true (95_test_vectors.md section 2.7). -/
def errorBoard : State := { boardRun with cfg := { boardT with devErrors := [(4, .always)] } }

theorem witness_FailedDeviceGoesInert :
    errorBoard.phase ≠ .failed ∧
    autonomous errorBoard.cfg 4 = true ∧
    runState errorBoard 4 = .running ∧
    devErrorHolds errorBoard.cfg 4 (devView errorBoard 4) = true := by
  decide

theorem witness_StoppedDevicesStayStopped :
    LifecycleOk boardHalted ∧ exec .haltAll boardHalted = .next (after .haltAll boardHalted) ∧
    runState boardHalted 4 = .halted ∧ runState boardHalted 5 = .inert :=
  ⟨boardHalted_lifecycle, exec_after _ _, by decide, by decide⟩

/-- `BOARD_T` running, primary line 4 enabled, the comparator of timer 4 at 1: the next tick matches. -/
def timerBoard : State := setCell 4 0x08 1 (setCell 3 0x04 0x10 boardRun)

theorem timerBoard_banks : BanksComplete timerBoard where
  fixed_cells sl k h q hq := by
    have hc : timerBoard.cfg = boardT := by decide
    rw [hc] at h
    rw [timerBoard, hasCell_setCell, hasCell_setCell]
    exact (boardIn_banks _ _ _).fixed_cells sl k h q hq
  offsets_aligned := by decide

theorem witness_TimerRaisesAndClearsIrq_raises :
    timerBoard.phase ≠ .failed ∧ kindOf timerBoard.cfg 4 = some .tmr ∧ runState timerBoard 4 = .running ∧
    devErrorHolds timerBoard.cfg 4 (devView timerBoard 4) = false ∧ BanksComplete timerBoard ∧
    timerBoard.cfg.lineCountsOk = true ∧ irqOutOf timerBoard.cfg 4 = some ⟨.pri, 4⟩ ∧ drives timerBoard 4 .pri 4 = true ∧
    (enableOf timerBoard .pri).getLsbD 4 = true ∧ timerBoard.cfg.fiqsel.getLsbD 4 = false ∧
    (cellValue timerBoard 4 0x08).setWidth 64 ≤ tmrCount timerBoard 4 + 1 :=
  ⟨by decide, by decide, by decide, by decide, timerBoard_banks, by decide, by decide, by decide, by decide, by decide,
    by decide⟩

theorem witness_TimerRaisesAndClearsIrq_clears :
    exec (.tick 4) timerBoard = .next (after (.tick 4) timerBoard) ∧
    InRange (after (.tick 4) timerBoard) 0x1000200C 4 rTmr ∧ PlainSlave (after (.tick 4) timerBoard) rTmr.slave .tmr ∧
    rTmr.slave = 4 ∧ localOffset rTmr 0x1000200C = 0x0C ∧ (1#32).getLsbD 0 = true ∧
    irqSet (after (.tick 4) timerBoard) = [4] := by
  simp only [InRange, Mapped, PlainSlave]
  exact ⟨exec_after _ _, by decide⟩

theorem witness_TimerStatusWrite :
    accessOf (.write32 0 0x1000200C 1) = some ⟨0, 0x1000200C, 4, false, .write⟩ ∧
    lowWord (writeValue (.write32 0 0x1000200C 1)) = 1 ∧
    InRange boardRun 0x1000200C 4 rTmr ∧
    rTmr.slave = 4 ∧
    PlainSlave boardRun 4 .tmr ∧
    localOffset rTmr 0x1000200C = 0x0C ∧
    hasCell boardRun 4 0x0C = true ∧
    boardRun.cfg.lineCountsOk = true := by
  simp only [InRange, Mapped, PlainSlave]
  decide

theorem witness_AddSlaveOutcome_refused :
    boardRun.phase ≠ .config := by
  decide

theorem witness_AddSlaveOutcome_unknown :
    boardWired.phase = .config ∧
    kindOf boardWired.cfg 8 = none := by
  decide

theorem witness_AddSlaveOutcome_empty :
    boardWired.phase = .config ∧
    kindOf boardWired.cfg 3 ≠ none ∧
    ¬ (0x50000#64 < 0x50000#64) := by
  decide

theorem witness_AddSlaveOutcome_overlap :
    boardWired.phase = .config ∧
    kindOf boardWired.cfg 3 ≠ none ∧
    0xFFFF#64 < 0x20000#64 ∧
    (∃ r ∈ boardWired.ranges, 0xFFFF#64 < r.high ∧ r.low < 0x20000#64) := by
  decide

theorem witness_AddSlaveOutcome_bound :
    boardWired.phase = .config ∧
    kindOf boardWired.cfg 3 ≠ none ∧
    0x10000#64 < 0x10000000#64 ∧
    (∀ r ∈ boardWired.ranges, ¬ (0x10000#64 < r.high ∧ r.low < 0x10000000#64)) := by
  decide

theorem witness_AddRegisterOutcome_refused :
    boardRun.phase ≠ .config := by
  decide

theorem witness_AddRegisterOutcome_not_bank :
    boardWired.phase = .config ∧ ∀ b, kindOf boardWired.cfg 2 ≠ some (.bank b) :=
  ⟨rfl, fun _ h => by cases h⟩

theorem witness_AddRegisterOutcome_misaligned :
    (bankState .fault).phase = .config ∧
    (∃ b, kindOf (bankState .fault).cfg 7 = some (.bank b)) ∧
    (0x12#32).toNat % 4 ≠ 0 :=
  ⟨rfl, ⟨_, rfl⟩, by decide⟩

theorem witness_AddRegisterOutcome_duplicate :
    (bankState .fault).phase = .config ∧
    (∃ b, kindOf (bankState .fault).cfg 7 = some (.bank b)) ∧
    (mapGet (bankState .fault).bank (cellKey 7 (0x14#32).toNat)).isSome = true :=
  ⟨rfl, ⟨_, rfl⟩, by decide⟩

theorem witness_AddRegisterOutcome_new :
    (bankState .fault).phase = .config ∧
    (∃ b, kindOf (bankState .fault).cfg 7 = some (.bank b)) ∧
    (0xFFFFFFFC#32).toNat % 4 = 0 ∧
    mapGet (bankState .fault).bank (cellKey 7 (0xFFFFFFFC#32).toNat) = none :=
  ⟨rfl, ⟨_, rfl⟩, by decide⟩

theorem witness_ConnectLineOutcome_refused :
    boardRun.phase ≠ .config := by
  decide

theorem witness_ConnectLineOutcome_range :
    boardWired.phase = .config ∧
    lineCount boardWired.cfg .pri ≤ (32#64).toNat := by
  decide

theorem witness_ConnectLineOutcome_duplicate :
    boardWired.phase = .config ∧
    (3#64).toNat < lineCount boardWired.cfg .sec ∧
    lineDriver boardWired .sec (3#64).toNat ≠ none ∧
    boardWired.cfg.cascade = some (31#64).toNat := by
  decide

theorem witness_ConnectLineOutcome_bound :
    boardWired.phase = .config ∧
    (31#64).toNat < lineCount boardWired.cfg .sec ∧
    lineDriver boardWired .sec (31#64).toNat = none ∧
    ¬ (Ctrl.sec = .pri ∧ boardWired.cfg.cascade = some (31#64).toNat) := by
  decide

theorem witness_StartAllOutcome :
    boardWired.phase = .config ∧
    boardRun.phase = .run ∧
    boardHalted.phase = .halted ∧
    boardFailed.phase = .failed := by
  decide

theorem witness_HaltAllOutcome :
    boardRun.phase = .run ∧
    boardHalted.phase = .halted ∧
    boardWired.phase = .config ∧
    boardFailed.phase = .failed := by
  decide

theorem witness_ResetValues :
    autonomous boardT 4 = true ∧
    kindOf boardT 5 = some .tmr ∧
    (mapGet (State.resetOf boardT).bank (cellKey 4 0x08)).isSome = true := by
  decide

/-- `BOARD_T` running with a tick of timer 4 presented. -/
def tickPresented : State := boardIn .run [(4, .running), (5, .running)] [0x488]

theorem step_stepped (s : State) : step s = .next (stepped s) := by
  have h : ∃ t, step s = .next t := by
    unfold step
    split
    · exact ⟨_, rfl⟩
    · split
      · exact ⟨_, exec_after _ _⟩
      · exact ⟨_, rfl⟩
  obtain ⟨t, h⟩ := h
  rw [stepped, h]

theorem witness_StepKeepsFabricInv :
    FabricInv tickPresented ∧ step tickPresented = .next (stepped tickPresented) ∧
    cellValue (stepped tickPresented) 4 0x00 = 1 :=
  ⟨boardRun_inv _, step_stepped _, by decide⟩

theorem witness_StepKeepsPendMatchesLine :
    tickPresented.cfg.lineCountsOk = true ∧ FabricInv tickPresented ∧ PendMatchesLine tickPresented ∧
    (∀ q rest i, tickPresented.pending = q :: rest → decodeRecord q = .ok i → ¬ setsTimerLine tickPresented.cfg i) ∧
    step tickPresented = .next (stepped tickPresented) := by
  refine ⟨by decide, boardRun_inv _, boardIn_pend _ _ _, ?_, step_stepped _⟩
  rintro q rest i hq hd ⟨ctl, d, id, b, rfl, -⟩
  cases hq
  cases ctl <;> cases hd

theorem witness_ConfigurationFrozen :
    exec (.tick 4) boardRun = .next (after (.tick 4) boardRun) ∧
    boardRun.phase ≠ .config ∧
    (mapGet boardRun.bank (cellKey 4 0x00)).isSome = true := by
  exact ⟨exec_after _ _, by decide⟩

end Sys2Proof.Tests
end

section
/-! What one step does with the presented requests: it takes the first one, if there is one, and runs the operation it
decodes to (00_scope.md R8; 60_exceptions.md R250). -/

namespace Sys2Proof.Proofs

open Sys2Proof.Machine

variable {s : State} {q : Request} {rest : List Request} {i : Instr}

theorem takeRequest_of_pending_nil (h : s.pending = []) : takeRequest s = none := by
  simp only [takeRequest, h]

theorem takeRequest_of_pending_cons (h : s.pending = q :: rest) :
    takeRequest s = some (q, s.setPending rest) := by
  simp only [takeRequest, h]

theorem step_of_pending_nil (h : s.pending = []) : step s = .next s := by
  simp only [step, takeRequest_of_pending_nil h]

theorem step_of_decodeRecord_ok (h : s.pending = q :: rest) (hd : decodeRecord q = .ok i) :
    step s = exec i (s.setPending rest) := by
  simp only [step, takeRequest_of_pending_cons h, hd]

/-- Settles O7: the two cases of `step` that end without a refusal of the record. -/
theorem stepRunsDecoded : Obligations.StepRunsDecoded :=
  ⟨fun _ _ _ _ hp hd => step_of_decodeRecord_ok hp hd, fun _ hp => step_of_pending_nil hp⟩

end Sys2Proof.Proofs
end

section
/-! Facts about maps, configurations, cells, lines and run states that the invariants of the fabric (`FabricInv`) rest
on, in the order of the definitions they speak of. -/

namespace Sys2Proof.Proofs

open Sys2Proof.Machine Sys2Proof.Safety Sys2Proof.Laws

/-! ### Maps -/

theorem mem_of_mapGet_eq_some {α : Type} {m : List (Nat × α)} {k : Nat} {v : α} (h : mapGet m k = some v) :
    (k, v) ∈ m := by
  induction m with
  | nil => cases h
  | cons p m ih =>
    obtain ⟨k', v'⟩ := p
    rw [mapGet] at h
    split at h
    · cases h
      subst k'
      exact List.mem_cons_self
    · exact List.mem_cons_of_mem _ (ih h)

/-- A write to a map loses no key. -/
theorem isSome_mapGet_mapSet {α : Type} {m : List (Nat × α)} {j : Nat} (k : Nat) (v : α)
    (h : (mapGet m j).isSome = true) : (mapGet (mapSet m k v) j).isSome = true := by
  rw [mapGet_mapSet]
  split
  · rfl
  · exact h

/-- Setting one value for each device of a list, as `resetRun` and `startDevices` do, keeps the canonical form. -/
theorem mapWf_foldl_mapSet {α : Type} (r : α) (ds : List Ident) (m : List (Nat × α)) (h : mapWf m = true) :
    mapWf (ds.foldl (fun m d => mapSet m d.toNat r) m) = true := by
  induction ds generalizing m with
  | nil => exact h
  | cons d ds ih => exact ih _ (mapWf_mapSet _ _ _ h)

theorem mapGet_foldl_mapSet {α : Type} (r : α) (ds : List Ident) (m : List (Nat × α)) (d : Ident) :
    mapGet (ds.foldl (fun m d => mapSet m d.toNat r) m) d.toNat = if d ∈ ds then some r else mapGet m d.toNat := by
  induction ds generalizing m with
  | nil => simp
  | cons e ds ih =>
    rw [List.foldl_cons, ih, mapGet_mapSet]
    simp only [BitVec.toNat_inj, List.mem_cons]
    split <;> simp_all

/-! ### Kinds of slaves and autonomous devices -/

theorem kindOf_controllerId {c : Cfg} (h : c.secId ≠ c.priId) (ctl : Ctrl) :
    kindOf c (controllerId c ctl) = some (ctrlKind ctl) := by
  cases ctl
  · simp [kindOf, controllerId, ctrlKind]
  · simp [kindOf, controllerId, ctrlKind, h.symm]

theorem isBank_iff {c : Cfg} {sl : Ident} : isBank c sl = true ↔ ∃ b, kindOf c sl = some (.bank b) := by
  unfold isBank
  split <;> simp_all

theorem mem_of_idLookup_eq_some {α : Type} {l : List (Ident × α)} {d : Ident} {v : α} (h : idLookup l d = some v) :
    (d, v) ∈ l := by
  induction l with
  | nil => cases h
  | cons p l ih =>
    obtain ⟨d', v'⟩ := p
    rw [idLookup] at h
    split at h
    · cases h
      subst d'
      exact List.mem_cons_self
    · exact List.mem_cons_of_mem _ (ih h)

/-- A slave with a kind is one of the two controllers or a listed slave. -/
theorem mem_slaves_of_kindOf {c : Cfg} {sl : Ident} {k : SlaveKind} (h : kindOf c sl = some k) :
    (sl, k) ∈ (c.secId, .sec) :: (c.priId, .pri) :: c.slaves := by
  unfold kindOf at h
  split at h
  · simp_all
  · split at h
    · simp_all
    · exact List.mem_cons_of_mem _ (List.mem_cons_of_mem _ (mem_of_idLookup_eq_some h))

/-- The list of autonomous devices misses none: a timer is a listed slave, any other is a listed ticker. -/
theorem mem_autonomousIds {c : Cfg} {d : Ident} : d ∈ autonomousIds c ↔ autonomous c d = true := by
  refine ⟨fun h => (List.mem_filter.1 h).2, fun h => List.mem_filter.2 ⟨List.mem_append.2 ?_, h⟩⟩
  unfold autonomous at h
  split at h
  · rename_i hk
    have hm := mem_slaves_of_kindOf hk
    simp only [List.mem_cons, Prod.mk.injEq, reduceCtorEq, and_false, false_or] at hm
    exact .inl (List.mem_map_of_mem hm)
  · cases h
  · cases h
  · cases h
  · exact .inr (by simpa using h)

/-! ### Cells -/

theorem cellKey_mod_four (sl : Ident) (off : Nat) : cellKey sl off % 4 = off % 4 := by
  unfold cellKey
  omega

theorem hasCell_iff {s : State} {sl : Ident} {off : Nat} :
    hasCell s sl off = true ↔ off < 2 ^ 32 ∧ (mapGet s.bank (cellKey sl off)).isSome = true := by
  simp [hasCell]

/-- After a write to a cell, a cell of the map reads as written if it is that cell, and as before otherwise. -/
theorem cellValue_setCell_cases (sl sl' : Ident) {off off' : Nat} (v : Word) (s : State) (ho : off < 2 ^ 32)
    (ho' : off' < 2 ^ 32) :
    (sl' = sl ∧ off' = off ∧ cellValue (setCell sl off v s) sl' off' = v) ∨
      cellValue (setCell sl off v s) sl' off' = cellValue s sl' off' := by
  by_cases hk : cellKey sl' off' = cellKey sl off
  · obtain ⟨rfl, rfl⟩ := cellKey_inj ho' ho hk
    rcases setCell_spec sl' off' v s with h | ⟨c, hc, -⟩
    · exact .inr (by rw [h])
    · exact .inl ⟨rfl, rfl, cellValue_setCell_same _ _ _ _ (hasCell_iff.2 ⟨ho, by simp [hc]⟩)⟩
  · exact .inr (cellValue_setCell_other _ _ _ _ _ _ hk)

/-- A cell of another slave reads as before. -/
theorem cellValue_setBank_mapSet_of_ne {s : State} {sl sl' : Ident} {off off' : Nat} (hne : sl' ≠ sl)
    (ho : off < 2 ^ 32) (ho' : off' < 2 ^ 32) (cell : RegCell) :
    cellValue (s.setBank (mapSet s.bank (cellKey sl off) cell)) sl' off' = cellValue s sl' off' := by
  have hk : cellKey sl' off' ≠ cellKey sl off := fun hk => hne (cellKey_inj ho' ho hk).1
  rw [cellValue, cellValue, setBank_bank, mapGet_mapSet_other _ _ hk]

/-! ### Lines -/

theorem drives_iff {s : State} {d : Ident} {ctl : Ctrl} {id : Nat} :
    drives s d ctl id = true ↔
      id < lineCount s.cfg ctl ∧ isCascade s.cfg ctl id = false ∧ lineDriver s ctl id = some (.dev d) := by
  simp [drives, and_assoc]

@[simp] theorem bindLine_raw (ctl ctl' : Ctrl) (id : Nat) (d : Ident) (s : State) :
    (controller (bindLine ctl id d s) ctl').raw = (controller s ctl').raw := by
  cases ctl <;> cases ctl' <;> rfl

@[simp] theorem bindLine_cfg (ctl : Ctrl) (id : Nat) (d : Ident) (s : State) : (bindLine ctl id d s).cfg = s.cfg := by
  cases ctl <;> rfl

theorem lineDriver_bindLine (ctl ctl' : Ctrl) (id j : Nat) (d : Ident) (s : State) :
    lineDriver (bindLine ctl id d s) ctl' j = if ctl' = ctl ∧ j = id then some (.dev d) else lineDriver s ctl' j := by
  cases ctl <;> cases ctl' <;> simp [lineDriver, bindLine, controller, mapGet_mapSet]

/-! ### Run states -/

theorem runState_setRunState (d e : Ident) (r : RunState) (s : State) :
    runState (setRunState d r s) e = if e = d then r else runState s e := by
  simp only [runState, setRunState, setRun_run, mapGet_mapSet, BitVec.toNat_inj]
  by_cases h : e = d <;> simp [h]

/-- Starting the devices makes exactly the autonomous ones Running (42_bus.md R162). -/
theorem runState_startDevices (s : State) (d : Ident) :
    runState (startDevices s) d = if autonomous s.cfg d = true then .running else runState s d := by
  simp only [runState, startDevices, setRun_run, mapGet_foldl_mapSet, mem_autonomousIds]
  by_cases h : autonomous s.cfg d = true <;> simp [h]

/-- Halting maps every run state by `haltRun` (42_bus.md R163). -/
theorem runState_map_haltRun (s : State) (d : Ident) :
    runState (s.setRun (s.run.map fun p => (p.1, haltRun p.2))) d = haltRun (runState s d) := by
  simp only [runState, setRun_run, mapGet_map]
  cases mapGet s.run d.toNat <;> rfl

end Sys2Proof.Proofs
end

section
/-! Every step keeps the invariants of the fabric: what each part of `FabricInv` reads, what each update of the state
keeps, and the induction over the steps of a device (10_state.md R13, R14, R16, R18, R21 to R24; 41_register_bank.md
R110). -/

namespace Sys2Proof.Proofs

open Sys2Proof.Machine Sys2Proof.Safety Sys2Proof.Laws

variable {s t : State}

/-! ### What each part of the invariant reads -/

/-- Where the connections stay, the wiring invariant is left to show of the raw bits that are set. -/
theorem linesWired_of_raw (h : LinesWired s) (hc : t.cfg = s.cfg)
    (hconn : ∀ ctl, (controller t ctl).conn = (controller s ctl).conn)
    (hraw : ∀ ctl id, (controller t ctl).raw.getLsbD id = true → ∃ d, drives s d ctl id = true) : LinesWired t := by
  have hl : ∀ ctl id, lineDriver t ctl id = lineDriver s ctl id := fun ctl id => by rw [lineDriver, lineDriver, hconn]
  refine ⟨fun ctl id hb => ?_, fun ctl id drv hd => ?_, fun id hid => ?_⟩
  · obtain ⟨d, hd⟩ := hraw ctl id hb
    exact ⟨d, by rwa [drives_iff, hc, hl, ← drives_iff]⟩
  · rw [hc]
    exact h.driver_legal ctl id drv (by rwa [← hl])
  · rw [hl]
    exact h.cascade_wired id (by rwa [← hc])

theorem linesWired_frame (h : LinesWired s) (hc : t.cfg = s.cfg) (hsec : t.sec = s.sec) (hpri : t.pri = s.pri) :
    LinesWired t := by
  have hctl : ∀ ctl, controller t ctl = controller s ctl := fun ctl => by cases ctl <;> assumption
  exact linesWired_of_raw h hc (fun ctl => by rw [hctl]) fun ctl id hb => h.raw_driven ctl id (by rwa [← hctl])

theorem banksComplete_frame (h : BanksComplete s) (hc : t.cfg = s.cfg) (hb : t.bank = s.bank) : BanksComplete t where
  fixed_cells sl k hk p hp := by
    have := h.fixed_cells sl k (hc ▸ hk) p hp
    rwa [hasCell, hb]
  offsets_aligned := hb ▸ h.offsets_aligned

theorem enablesMasked_frame (h : EnablesMasked s) (hc : t.cfg = s.cfg)
    (hv : ∀ ctl, enableOf t ctl = enableOf s ctl) : EnablesMasked t := by
  intro hne ctl
  rw [hv, hc]
  exact h (hc ▸ hne) ctl

theorem statsOneBit_frame (h : StatsOneBit s) (hc : t.cfg = s.cfg)
    (hv : ∀ d, kindOf s.cfg d = some .tmr → cellValue t d 0x0C = cellValue s d 0x0C) : StatsOneBit t := by
  intro d hd
  rw [hc] at hd
  rw [hv d hd]
  exact h d hd

theorem cellValue_frame (hb : t.bank = s.bank) (sl : Ident) (off : Nat) : cellValue t sl off = cellValue s sl off := by
  rw [cellValue, cellValue, hb]

theorem lifecycleOk_frame (h : LifecycleOk s) (hc : t.cfg = s.cfg) (hp : t.phase = s.phase) (hr : t.run = s.run)
    (hh : t.shouldHalt = s.shouldHalt) : LifecycleOk t := by
  have hrun : ∀ d, runState t d = runState s d := fun d => by rw [runState, runState, hr]
  refine ⟨?_, ?_, ?_, ?_⟩
  · rw [hh, hp]
    exact h.halt_flag
  · simpa only [hp, hrun] using h.not_started
  · simpa only [hp, hc, hrun] using h.started
  · simpa only [hp, hc, hrun] using h.stopped

/-- An update that leaves the board and the bank alone keeps the invariants of the register cells. -/
theorem fabricInv_of_bank_eq (h : FabricInv s) (hc : t.cfg = s.cfg) (hb : t.bank = s.bank) (hr : RangesDisjoint t)
    (hm : MapsCanonical t) (hw : LinesWired t) (hl : LifecycleOk t) : FabricInv t where
  ranges := hr
  maps := hm
  lines := hw
  banks := banksComplete_frame h.banks hc hb
  enables := enablesMasked_frame h.enables hc fun ctl => by
    rw [enableOf, enableOf, hc]
    exact cellValue_frame hb _ _
  stats := statsOneBit_frame h.stats hc fun d _ => cellValue_frame hb d _
  lifecycle := hl

/-- The model's own record of requests, response and refusals is no part of the invariant. -/
theorem fabricInv_bookkeeping (h : FabricInv s) (p : List Request) (r : Option Response) (b : Bool) :
    FabricInv { s with pending := p, response := r, sawRefusal := b } :=
  fabricInv_of_bank_eq h rfl rfl h.ranges h.maps (linesWired_frame h.lines rfl rfl rfl)
    (lifecycleOk_frame h.lifecycle rfl rfl rfl rfl)

theorem fabricInv_respond (h : FabricInv s) (d : Data) : FabricInv (respond d s) :=
  fabricInv_bookkeeping h _ _ _

theorem fabricInv_refuse (h : FabricInv s) (why : RefuseReason) : FabricInv (refuse why s) :=
  fabricInv_bookkeeping h _ _ _

theorem fabricInv_raiseBusFault (h : FabricInv s) (kind : BusFaultKind) (addr : DWord) (len : Nat) (dir : Dir)
    (m : Ident) : FabricInv (raiseBusFault kind addr len dir m s) := fabricInv_bookkeeping h _ _ _

theorem fabricInv_setPending (h : FabricInv s) (p : List Request) : FabricInv (s.setPending p) :=
  fabricInv_bookkeeping h _ _ _

/-! ### The steps of a device keep the invariant -/

theorem banksComplete_setCell (h : BanksComplete s) (d : Ident) (off : Nat) (v : Word) :
    BanksComplete (setCell d off v s) where
  fixed_cells sl k hk p hp := by
    rw [hasCell_setCell]
    exact h.fixed_cells sl k ((setCell_sameFabric d off v s).cfg ▸ hk) p hp
  offsets_aligned := by
    rcases setCell_spec d off v s with hset | ⟨cell, hcell, hset⟩
    · rw [hset]
      exact h.offsets_aligned
    · rw [hset]
      intro p hp
      rcases keys_mapSet _ _ _ p hp with rfl | hp
      · exact h.offsets_aligned (_, cell) (mem_of_mapGet_eq_some hcell)
      · exact h.offsets_aligned p hp

theorem mapWf_setCell (h : mapWf s.bank = true) (d : Ident) (off : Nat) (v : Word) :
    mapWf (setCell d off v s).bank = true := by
  rcases setCell_spec d off v s with hset | ⟨cell, -, hset⟩
  · rwa [hset]
  · rw [hset]
    exact mapWf_mapSet _ _ _ h

/-- The machine writes an ENABLE register masked (43_interrupt_fabric.md R178). -/
theorem cellWriteOk_masked {c : Cfg} {ctl : Ctrl} {off : Nat} {v : Word} (hne : c.secId ≠ c.priId)
    (ok : CellWriteOk c (controllerId c ctl) off v) (hoff : off = 0x04) : v &&& lineMask (lineCount c ctl) = v := by
  have hk := kindOf_controllerId hne ctl
  cases ctl
  · exact ok.sec hk hoff
  · exact ok.pri hk hoff

theorem enablesMasked_setCell {d : Ident} {off : Nat} {v : Word} (h : EnablesMasked s)
    (ok : CellWriteOk s.cfg d off v) : EnablesMasked (setCell d off v s) := by
  intro hne ctl
  rw [enableOf, (setCell_sameFabric d off v s).cfg]
  rw [(setCell_sameFabric d off v s).cfg] at hne
  rcases cellValue_setCell_cases d (controllerId s.cfg ctl) (off' := 0x04) v s ok.key (by norm_num) with
    ⟨rfl, hoff, hv⟩ | hv
  · rw [hv]
    exact cellWriteOk_masked hne ok hoff.symm
  · rw [hv]
    exact h hne ctl

theorem statsOneBit_setCell {d : Ident} {off : Nat} {v : Word} (h : StatsOneBit s)
    (ok : CellWriteOk s.cfg d off v) : StatsOneBit (setCell d off v s) := by
  intro e he
  rw [(setCell_sameFabric d off v s).cfg] at he
  rcases cellValue_setCell_cases d e (off' := 0x0C) v s ok.key (by norm_num) with ⟨rfl, hoff, hv⟩ | hv
  · rw [hv]
    exact ok.tmr he hoff.symm
  · rw [hv]
    exact h e he

theorem fabricInv_setCell {d : Ident} {off : Nat} {v : Word} (h : FabricInv s) (ok : CellWriteOk s.cfg d off v) :
    FabricInv (setCell d off v s) := by
  have hbanks := banksComplete_setCell h.banks d off v
  have henables := enablesMasked_setCell h.enables ok
  have hstats := statsOneBit_setCell h.stats ok
  obtain ⟨hram, hbank, hmaps⟩ := h.maps
  have hwf := mapWf_setCell hbank d off v
  obtain ⟨b, hb⟩ := setCell_eq_setBank d off v s
  rw [hb] at hbanks henables hstats hwf ⊢
  exact ⟨h.ranges, ⟨hram, hwf, hmaps⟩, linesWired_frame h.lines rfl rfl rfl, hbanks, henables, hstats,
    lifecycleOk_frame h.lifecycle rfl rfl rfl rfl⟩

theorem fabricInv_ramWrite (h : FabricInv s) (d : Ident) (off : Nat) (bs : List Byte) :
    FabricInv (ramWrite d off bs s) := by
  obtain ⟨hram, hmaps⟩ := h.maps
  exact fabricInv_of_bank_eq h rfl rfl h.ranges ⟨memory_wf_memWrite _ _ _ hram, hmaps⟩
    (linesWired_frame h.lines rfl rfl rfl) (lifecycleOk_frame h.lifecycle rfl rfl rfl rfl)

theorem fabricInv_setDevState (h : FabricInv s) (d : Ident) (l : List DWord) :
    FabricInv (s.setDevState (mapSet s.devState d.toNat l)) := by
  obtain ⟨hram, hbank, hrun, hsec, hpri, hdev⟩ := h.maps
  exact fabricInv_of_bank_eq h rfl rfl h.ranges ⟨hram, hbank, hrun, hsec, hpri, mapWf_mapSet _ _ _ hdev⟩
    (linesWired_frame h.lines rfl rfl rfl) (lifecycleOk_frame h.lifecycle rfl rfl rfl rfl)

theorem linesWired_setRaw {d : Ident} {ctl : Ctrl} {id : Nat} (h : LinesWired s) (hd : drives s d ctl id = true)
    (b : Bool) : LinesWired (setRaw ctl id b s) := by
  refine linesWired_of_raw h (setRaw_cfg _ _ _ _) (fun ctl' => setRaw_conn _ _ _ _ _) fun ctl' j hb => ?_
  rw [setRaw_raw] at hb
  split at hb
  · rename_i hline
    obtain ⟨rfl, rfl, -⟩ := hline
    exact ⟨d, hd⟩
  · exact h.raw_driven ctl' j hb

/-- A device may set and clear the lines it drives. -/
theorem fabricInv_setRaw {d : Ident} {ctl : Ctrl} {id : Nat} (h : FabricInv s) (hd : drives s d ctl id = true)
    (b : Bool) : FabricInv (setRaw ctl id b s) := by
  have hlines := linesWired_setRaw h.lines hd b
  obtain ⟨r, q, hrq⟩ := setRaw_eq ctl id b s
  rw [hrq] at hlines ⊢
  exact fabricInv_of_bank_eq h rfl rfl h.ranges h.maps hlines (lifecycleOk_frame h.lifecycle rfl rfl rfl rfl)

theorem fabricInv_deviceSetLine (h : FabricInv s) (d : Ident) (ctl : Ctrl) (id : Nat) (b : Bool) :
    FabricInv (deviceSetLine d ctl id b s) := by
  unfold deviceSetLine
  split
  · exact fabricInv_setRaw h ‹_› b
  · exact h

theorem fabricInv_deviceSteps {d : Ident} (h : FabricInv s) (steps : DeviceSteps d s t) : FabricInv t := by
  induction steps with
  | refl => exact h
  | cell ok hst ih => exact fabricInv_setCell ih ((deviceSteps_sameFabric hst).cfg ▸ ok)
  | ram _ _ _ ih => exact fabricInv_ramWrite ih _ _ _
  | other _ ih => exact fabricInv_setDevState ih _ _
  | line _ ih => exact fabricInv_deviceSetLine ih _ _ _ _

/-! ### The lifecycle (42_bus.md R162, R163; 44_device_threads.md R203; 60_exceptions.md R233) -/

/-- Outside `CONFIG` and `RUN` no device is Running. -/
theorem phase_of_running {d : Ident} (h : LifecycleOk s) (ha : autonomous s.cfg d = true)
    (hr : runState s d = .running) : s.phase = .run := by
  cases hp : s.phase with
  | run => rfl
  | config => simp [h.not_started (.inl hp) d] at hr
  | failed => simp [h.not_started (.inr hp) d] at hr
  | halted => rcases h.stopped hp d ha with hd | hd <;> simp [hd] at hr

theorem lifecycleOk_setRunState_inert {d : Ident} (h : LifecycleOk s) (hp : s.phase = .run) :
    LifecycleOk (setRunState d .inert s) where
  halt_flag := h.halt_flag
  not_started hph := by
    change s.phase = .config ∨ s.phase = .failed at hph
    simp [hp] at hph
  started _ e he := by
    rw [runState_setRunState]
    split
    · exact .inr rfl
    · exact h.started hp e he
  stopped hph := by
    change s.phase = .halted at hph
    simp [hp] at hph

theorem fabricInv_setRunState_inert {d : Ident} (h : FabricInv s) (ha : autonomous s.cfg d = true)
    (hr : runState s d = .running) : FabricInv (setRunState d .inert s) := by
  obtain ⟨hram, hbank, hrun, hmaps⟩ := h.maps
  exact fabricInv_of_bank_eq h rfl rfl h.ranges ⟨hram, hbank, mapWf_mapSet _ _ _ hrun, hmaps⟩
    (linesWired_frame h.lines rfl rfl rfl)
    (lifecycleOk_setRunState_inert h.lifecycle (phase_of_running h.lifecycle ha hr))

theorem lifecycleOk_raiseConfigError (h : LifecycleOk s) (hp : s.phase = .config) (kind : ConfigErrorKind) :
    LifecycleOk (raiseConfigError kind s) where
  halt_flag := by
    have hflag := h.halt_flag
    rw [hp] at hflag
    simpa [raiseConfigError] using hflag
  not_started _ := h.not_started (.inl hp)
  started hph := by cases hph
  stopped hph := by cases hph

theorem fabricInv_raiseConfigError (h : FabricInv s) (hp : s.phase = .config) (kind : ConfigErrorKind) :
    FabricInv (raiseConfigError kind s) :=
  fabricInv_of_bank_eq h rfl rfl h.ranges h.maps (linesWired_frame h.lines rfl rfl rfl)
    (lifecycleOk_raiseConfigError h.lifecycle hp kind)

theorem lifecycleOk_start (h : LifecycleOk s) (hp : s.phase = .config) :
    LifecycleOk ((startDevices s).setPhase .run) where
  halt_flag := by
    have hflag := h.halt_flag
    rw [hp] at hflag
    simpa [startDevices] using hflag
  not_started hph := by rcases hph with hph | hph <;> cases hph
  started _ d hd := .inl ((runState_startDevices s d).trans (if_pos hd))
  stopped hph := by cases hph

theorem fabricInv_start (h : FabricInv s) (hp : s.phase = .config) : FabricInv ((startDevices s).setPhase .run) := by
  obtain ⟨hram, hbank, hrun, hmaps⟩ := h.maps
  exact fabricInv_of_bank_eq h rfl rfl h.ranges ⟨hram, hbank, mapWf_foldl_mapSet _ _ _ hrun, hmaps⟩
    (linesWired_frame h.lines rfl rfl rfl) (lifecycleOk_start h.lifecycle hp)

theorem lifecycleOk_halt (h : LifecycleOk s) (hp : s.phase = .run) :
    LifecycleOk (((s.setShouldHalt true).setRun (s.run.map fun p => (p.1, haltRun p.2))).setPhase .halted) where
  halt_flag := iff_of_true rfl rfl
  not_started hph := by rcases hph with hph | hph <;> cases hph
  started hph := by cases hph
  stopped _ d hd := by
    have hhalt := runState_map_haltRun s d
    rcases h.started hp d hd with hr | hr
    · exact .inl (hhalt.trans (by rw [hr]; rfl))
    · exact .inr (hhalt.trans (by rw [hr]; rfl))

theorem fabricInv_halt (h : FabricInv s) (hp : s.phase = .run) :
    FabricInv (((s.setShouldHalt true).setRun (s.run.map fun p => (p.1, haltRun p.2))).setPhase .halted) := by
  obtain ⟨hram, hbank, hrun, hmaps⟩ := h.maps
  exact fabricInv_of_bank_eq h rfl rfl h.ranges ⟨hram, hbank, (mapWf_map _ _).trans hrun, hmaps⟩
    (linesWired_frame h.lines rfl rfl rfl) (lifecycleOk_halt h.lifecycle hp)

/-! ### The configuration operations (42_bus.md R130; 41_register_bank.md R110; 43_interrupt_fabric.md R170, R171) -/

theorem fabricInv_addSlave {r : Range} (h : FabricInv s) (hlt : r.low < r.high)
    (hno : ∀ q ∈ s.ranges, r.high ≤ q.low ∨ q.high ≤ r.low) : FabricInv (s.setRanges (s.ranges ++ [r])) := by
  obtain ⟨hne, hdis⟩ := h.ranges
  have hranges : RangesDisjoint (s.setRanges (s.ranges ++ [r])) := by
    refine ⟨fun q hq => ?_, List.pairwise_append.2 ⟨hdis, List.pairwise_singleton _ _, fun q hq q' hq' => ?_⟩⟩
    · rcases List.mem_append.1 hq with hq | hq
      · exact hne q hq
      · rwa [List.mem_singleton.1 hq]
    · rw [List.mem_singleton.1 hq']
      exact (hno q hq).symm
  exact fabricInv_of_bank_eq h rfl rfl hranges h.maps (linesWired_frame h.lines rfl rfl rfl)
    (lifecycleOk_frame h.lifecycle rfl rfl rfl rfl)

theorem banksComplete_addRegister {sl : Ident} {off : Nat} (h : BanksComplete s) (hal : off % 4 = 0) (cell : RegCell) :
    BanksComplete (s.setBank (mapSet s.bank (cellKey sl off) cell)) where
  fixed_cells sl' k hk p hp := by
    obtain ⟨hlt, hsome⟩ := hasCell_iff.1 (h.fixed_cells sl' k hk p hp)
    exact hasCell_iff.2 ⟨hlt, isSome_mapGet_mapSet _ _ hsome⟩
  offsets_aligned p hp := by
    rcases keys_mapSet _ _ _ p hp with rfl | hp
    · exact (cellKey_mod_four sl off).trans hal
    · exact h.offsets_aligned p hp

/-- `ADD_REGISTER` adds cells to generic banks only, so no ENABLE register and no `TMR_STAT` changes. -/
theorem fabricInv_addRegister {sl : Ident} {off : Nat} (h : FabricInv s) (hk : isBank s.cfg sl = true)
    (hlt : off < 2 ^ 32) (hal : off % 4 = 0) (cell : RegCell) :
    FabricInv (s.setBank (mapSet s.bank (cellKey sl off) cell)) := by
  obtain ⟨hram, hbank, hmaps⟩ := h.maps
  obtain ⟨b, hb⟩ := isBank_iff.1 hk
  refine ⟨h.ranges, ⟨hram, mapWf_mapSet _ _ _ hbank, hmaps⟩, linesWired_frame h.lines rfl rfl rfl,
    banksComplete_addRegister h.banks hal cell, fun hne ctl => ?_, ?_, lifecycleOk_frame h.lifecycle rfl rfl rfl rfl⟩
  · have hctl : controllerId s.cfg ctl ≠ sl := by
      rintro rfl
      have hctl := hb.symm.trans (kindOf_controllerId hne ctl)
      cases ctl <;> cases hctl
    have hv : enableOf (s.setBank (mapSet s.bank (cellKey sl off) cell)) ctl = enableOf s ctl :=
      cellValue_setBank_mapSet_of_ne hctl hlt (by norm_num) cell
    rw [hv]
    exact h.enables hne ctl
  · refine statsOneBit_frame h.stats rfl fun d hd => ?_
    have hne : d ≠ sl := by
      rintro rfl
      rw [hb] at hd
      cases hd
    exact cellValue_setBank_mapSet_of_ne hne hlt (by norm_num) cell

/-- Binding a free line keeps every line that is driven already. -/
theorem linesWired_bindLine {ctl : Ctrl} {id : Nat} (h : LinesWired s) (d : Ident) (hid : id < lineCount s.cfg ctl)
    (hc : isCascade s.cfg ctl id = false) (hno : lineDriver s ctl id = none) : LinesWired (bindLine ctl id d s) := by
  have hkeep : ∀ ctl' j drv, lineDriver s ctl' j = some drv →
      lineDriver (bindLine ctl id d s) ctl' j = some drv := by
    intro ctl' j drv hj
    rw [lineDriver_bindLine, if_neg ?_, hj]
    rintro ⟨rfl, rfl⟩
    rw [hno] at hj
    cases hj
  refine ⟨fun ctl' j hb => ?_, fun ctl' j drv hj => ?_, fun j hj => ?_⟩
  · rw [bindLine_raw] at hb
    obtain ⟨e, he⟩ := h.raw_driven ctl' j hb
    obtain ⟨hlt, hcas, hdrv⟩ := drives_iff.1 he
    exact ⟨e, drives_iff.2 ⟨by rwa [bindLine_cfg], by rwa [bindLine_cfg], hkeep _ _ _ hdrv⟩⟩
  · rw [lineDriver_bindLine] at hj
    rw [bindLine_cfg]
    split at hj
    · rename_i hline
      obtain ⟨rfl, rfl⟩ := hline
      cases hj
      exact .inr ⟨hc, hid, d, rfl⟩
    · exact h.driver_legal ctl' j drv hj
  · rw [bindLine_cfg] at hj
    exact hkeep _ _ _ (h.cascade_wired j hj)

theorem fabricInv_bindLine {ctl : Ctrl} {id : Nat} (h : FabricInv s) (d : Ident) (hid : id < lineCount s.cfg ctl)
    (hc : isCascade s.cfg ctl id = false) (hno : lineDriver s ctl id = none) : FabricInv (bindLine ctl id d s) := by
  have hlines := linesWired_bindLine h.lines d hid hc hno
  obtain ⟨hram, hbank, hrun, hsec, hpri, hdev⟩ := h.maps
  cases ctl
  · exact fabricInv_of_bank_eq h rfl rfl h.ranges ⟨hram, hbank, hrun, mapWf_mapSet _ _ _ hsec, hpri, hdev⟩ hlines
      (lifecycleOk_frame h.lifecycle rfl rfl rfl rfl)
  · exact fabricInv_of_bank_eq h rfl rfl h.ranges ⟨hram, hbank, hrun, hsec, mapWf_mapSet _ _ _ hpri, hdev⟩ hlines
      (lifecycleOk_frame h.lifecycle rfl rfl rfl rfl)

/-! ### Operations and steps -/

theorem fabricInv_opEffect {i : Instr} (h : FabricInv s) (he : OpEffect i s t) : FabricInv t := by
  cases he with
  | refused why => exact fabricInv_refuse h why
  | busFault acc kind => exact fabricInv_raiseBusFault h _ _ _ _ _
  | configError kind hp => exact fabricInv_raiseConfigError h hp kind
  | answer d => exact fabricInv_respond h d
  | access acc r u d hi hp hm steps => exact fabricInv_respond (fabricInv_deviceSteps h steps) d
  | tick d hi hp ha => exact fabricInv_respond (fabricInv_deviceSteps h (tickDevice_steps d s ha)) _
  | inert d hi hp ha hr => exact fabricInv_respond (fabricInv_setRunState_inert h ha hr) _
  | setLine ctl d id b hi hp hd => exact fabricInv_respond (fabricInv_setRaw h hd b) _
  | addSlave sl low high hi hp hk hlt hno =>
    exact fabricInv_respond (fabricInv_addSlave h (r := ⟨low, high, sl⟩) hlt hno) _
  | addRegister sl off rv hi hp hk hal => exact fabricInv_respond (fabricInv_addRegister h hk off.isLt hal _) _
  | connect ctl d id hi hp hid hc hno => exact fabricInv_respond (fabricInv_bindLine h d hid hc hno) _
  | start hi hp => exact fabricInv_respond (fabricInv_start h hp) _
  | halt hi hp => exact fabricInv_respond (fabricInv_halt h hp) _

/-- Settles O58: every effect of an operation keeps the invariants, and taking or refusing a request touches none of
them. -/
theorem stepKeepsFabricInv : Obligations.StepKeepsFabricInv := by
  intro s t h hstep
  rcases step_effect hstep with ⟨-, rfl⟩ | ⟨q, rest, -, ⟨e, -, rfl⟩ | ⟨i, -, he⟩⟩
  · exact h
  · exact fabricInv_refuse (fabricInv_setPending h rest) _
  · exact fabricInv_opEffect (fabricInv_setPending h rest) he

end Sys2Proof.Proofs
end

section
/-! Who changes a raw bit (10_state.md R16; 43_interrupt_fabric.md R179), and the phase `FAILED` (10_state.md R13;
60_exceptions.md R246). -/

namespace Sys2Proof.Proofs

open Sys2Proof.Machine Sys2Proof.Safety Sys2Proof.Laws

variable {s t : State}

/-! ### Raw bits -/

theorem drives_of_sameFabric (h : SameFabric s t) (d : Ident) (ctl : Ctrl) (id : Nat) :
    drives t d ctl id = drives s d ctl id := by
  rw [Bool.eq_iff_iff, drives_iff, drives_iff, lineDriver, lineDriver, h.cfg, h.conn]

@[simp] theorem controller_respond (d : Data) (s : State) (ctl : Ctrl) :
    controller (respond d s) ctl = controller s ctl := by
  cases ctl <;> rfl

theorem controller_setCell (d : Ident) (off : Nat) (v : Word) (s : State) (ctl : Ctrl) :
    controller (setCell d off v s) ctl = controller s ctl := by
  obtain ⟨b, hb⟩ := setCell_eq_setBank d off v s
  rw [hb]
  cases ctl <;> rfl

/-- Writing one raw bit changes no other. -/
theorem eq_of_setRaw_raw_ne {ctl ctl' : Ctrl} {id j : Nat} {b : Bool}
    (h : (controller (setRaw ctl id b s) ctl').raw.getLsbD j ≠ (controller s ctl').raw.getLsbD j) :
    ctl' = ctl ∧ j = id := by
  rw [setRaw_raw] at h
  split at h
  · rename_i hline
    obtain ⟨hctl, hid, -⟩ := hline
    exact ⟨hctl, hid⟩
  · exact absurd rfl h

theorem drives_of_deviceSetLine_raw_ne {d : Ident} {ctl ctl' : Ctrl} {id j : Nat} {b : Bool}
    (h : (controller (deviceSetLine d ctl id b s) ctl').raw.getLsbD j ≠ (controller s ctl').raw.getLsbD j) :
    drives s d ctl' j = true := by
  unfold deviceSetLine at h
  split at h
  · obtain ⟨rfl, rfl⟩ := eq_of_setRaw_raw_ne h
    assumption
  · exact absurd rfl h

/-- The steps of a device change the raw bits of the lines it drives, and no other. -/
theorem drives_of_deviceSteps_raw_ne {d : Ident} (steps : DeviceSteps d s t) {ctl : Ctrl} {id : Nat}
    (h : (controller t ctl).raw.getLsbD id ≠ (controller s ctl).raw.getLsbD id) : drives s d ctl id = true := by
  induction steps with
  | refl => exact absurd rfl h
  | cell _ _ ih => exact ih (by rwa [controller_setCell] at h)
  | ram _ _ _ ih => exact ih (by cases ctl <;> exact h)
  | other _ ih => exact ih (by cases ctl <;> exact h)
  | @line u ctl' id' b hst ih =>
    by_cases hu : (controller u ctl).raw.getLsbD id = (controller s ctl).raw.getLsbD id
    · rw [← hu] at h
      rw [← drives_of_sameFabric (deviceSteps_sameFabric hst)]
      exact drives_of_deviceSetLine_raw_ne h
    · exact ih hu

/-- Settles O42: of the effects of an operation only the steps of a device and `SET_LINE_*` touch a raw vector. -/
theorem rawChangesOnlyByDriver : Obligations.RawChangesOnlyByDriver := by
  intro i s t ctl id hexec hne
  cases exec_next_effect hexec with
  | access acc r u d hi hp hm steps =>
    rw [controller_respond] at hne
    exact ⟨r.slave, drives_of_deviceSteps_raw_ne steps hne, .inl (.inr ⟨acc, r, hi, hm, rfl⟩)⟩
  | tick d hi hp ha =>
    rw [controller_respond] at hne
    exact ⟨d, drives_of_deviceSteps_raw_ne (tickDevice_steps d s ha) hne, .inl (.inl hi)⟩
  | setLine ctl' d n b hi hp hd =>
    rw [controller_respond] at hne
    obtain ⟨rfl, rfl⟩ := eq_of_setRaw_raw_ne hne
    exact ⟨d, hd, .inr ⟨n, b, rfl, by cases ctl <;> exact hi⟩⟩
  | connect ctl' d n =>
    rw [controller_respond, bindLine_raw] at hne
    exact absurd rfl hne
  | _ => exact absurd (by cases ctl <;> rfl) hne

/-! ### The phase `FAILED` -/

section
variable (hp : s.phase = .failed)
include hp

theorem busRead_of_failed (m : Ident) (addr : DWord) (len : Nat) (u : Bool) (wrap : DWord → Data) :
    busRead m addr len u wrap s = refuse .phase s := by
  simp only [busRead, routeAccess_refused.2 hp]

theorem busWrite_of_failed (m : Ident) (addr : DWord) (len : Nat) (u : Bool) (v : DWord) :
    busWrite m addr len u v s = refuse .phase s := by
  simp only [busWrite, routeAccess_refused.2 hp]

theorem busProbe_of_failed (m : Ident) (addr : DWord) (len : Nat) (dir : Dir) :
    busProbe m addr len dir s = refuse .phase s := if_pos hp

theorem queryLevel_of_failed (level : State → Bool) : queryLevel level s = refuse .phase s := if_pos hp

theorem setLine_of_failed (ctl : Ctrl) (d : Ident) (id : DWord) (b : Bool) :
    setLine ctl d id b s = refuse .phase s := if_pos hp

theorem tickStep_of_failed (d : Ident) : tickStep d s = refuse .phase s := if_pos hp

theorem ne_config_of_failed : s.phase ≠ .config := by simp [hp]

theorem addSlave_of_failed (sl : Ident) (low high : DWord) : addSlave sl low high s = refuse .phase s :=
  if_pos (ne_config_of_failed hp)

theorem addRegister_of_failed (sl : Ident) (off rv : Word) : addRegister sl off rv s = refuse .phase s :=
  if_pos (ne_config_of_failed hp)

theorem connectLine_of_failed (ctl : Ctrl) (d : Ident) (id : DWord) : connectLine ctl d id s = refuse .phase s :=
  if_pos (ne_config_of_failed hp)

theorem startAll_of_failed : startAll s = refuse .phase s := by
  simp only [startAll, hp]

theorem haltAll_of_failed : haltAll s = refuse .phase s := by
  simp only [haltAll, hp]

theorem exec_of_failed (i : Instr) : exec i s = .next (refuse .phase s) := by
  cases i with
  | read8 | read16 | read32 | read64 | read16u | read32u | read64u =>
    exact congrArg proceed (busRead_of_failed hp _ _ _ _ _)
  | write8 | write16 | write32 | write64 | write16u | write32u | write64u =>
    exact congrArg proceed (busWrite_of_failed hp _ _ _ _ _)
  | canread | canwrite => exact congrArg proceed (busProbe_of_failed hp _ _ _ _)
  | irqQ | fiqQ => exact congrArg proceed (queryLevel_of_failed hp _)
  | setLineSec | setLinePri => exact congrArg proceed (setLine_of_failed hp _ _ _ _)
  | tick => exact congrArg proceed (tickStep_of_failed hp _)
  | addSlave => exact congrArg proceed (addSlave_of_failed hp _ _ _)
  | addRegister => exact congrArg proceed (addRegister_of_failed hp _ _ _)
  | connectLineSec | connectLinePri => exact congrArg proceed (connectLine_of_failed hp _ _ _)
  | startAll => exact congrArg proceed (startAll_of_failed hp)
  | haltAll => exact congrArg proceed (haltAll_of_failed hp)

end

/-- Settles O16: every operation's first test is the phase. -/
theorem failedRefusesEverything : Obligations.FailedRefusesEverything :=
  fun i _ hp => exec_of_failed hp i

end Sys2Proof.Proofs
end

section
/-! The state after reset: where its cells come from, what they hold, and that it meets the invariants (10_state.md R26;
41_register_bank.md R110; 44_device_threads.md R209). -/

namespace Sys2Proof.Proofs

open Sys2Proof.Machine Sys2Proof.Safety Sys2Proof.Laws

/-! ### The cells at reset -/

/-- The reset value of a cell of the fixed register maps, by its offset alone: only `TMR_CMP_LO` stands at 0x08
(10_state.md R21 to R23). -/
def fixedResetValue (off : Nat) : Word := if off = 0x08 then 0xFFFFFFFF else 0

theorem resetCells_spec {k : SlaveKind} {p : Nat × RegCell} (h : p ∈ resetCells k) :
    p.1 < 2 ^ 32 ∧ p.1 % 4 = 0 ∧ p.2.resetValue = fixedResetValue p.1 ∧ p.2.currentValue = p.2.resetValue := by
  cases k with
  | sec | pri =>
    rcases List.mem_singleton.1 h with rfl
    decide
  | tmr =>
    simp only [resetCells, List.mem_cons, List.not_mem_nil, or_false] at h
    rcases h with rfl | rfl | rfl | rfl | rfl <;> decide
  | ram | bank | other => cases h

theorem mem_enterCells {sl : Ident} {cells bank : List (Nat × RegCell)} {p : Nat × RegCell}
    (h : p ∈ enterCells sl cells bank) : p ∈ bank ∨ ∃ q ∈ cells, p = (cellKey sl q.1, q.2) := by
  induction cells generalizing bank with
  | nil => exact .inl h
  | cons q cells ih =>
    rcases ih h with hp | ⟨q', hq', rfl⟩
    · rcases keys_mapSet _ _ _ p hp with rfl | hp
      · exact .inr ⟨q, List.mem_cons_self, rfl⟩
      · exact .inl hp
    · exact .inr ⟨q', List.mem_cons_of_mem _ hq', rfl⟩

theorem mem_enterSlaves {slaves : List (Ident × SlaveKind)} {bank : List (Nat × RegCell)} {p : Nat × RegCell}
    (h : p ∈ enterSlaves slaves bank) :
    p ∈ bank ∨ ∃ e ∈ slaves, ∃ q ∈ resetCells e.2, p = (cellKey e.1 q.1, q.2) := by
  induction slaves generalizing bank with
  | nil => exact .inl h
  | cons e slaves ih =>
    rcases ih h with hp | ⟨e', he', hq⟩
    · rcases mem_enterCells hp with hp | hq
      · exact .inl hp
      · exact .inr ⟨e, List.mem_cons_self, hq⟩
    · exact .inr ⟨e', List.mem_cons_of_mem _ he', hq⟩

/-- Every cell at reset is a cell of a fixed register map. -/
theorem mem_resetBank {c : Cfg} {p : Nat × RegCell} (h : p ∈ resetBank c) :
    ∃ sl k, ∃ q ∈ resetCells k, p = (cellKey sl q.1, q.2) := by
  rcases mem_enterSlaves h with hp | ⟨e, -, q, hq, hp⟩
  · cases hp
  · exact ⟨e.1, e.2, q, hq, hp⟩

theorem isSome_enterCells_of_isSome (sl : Ident) (cells : List (Nat × RegCell)) {bank : List (Nat × RegCell)}
    {key : Nat} (h : (mapGet bank key).isSome = true) : (mapGet (enterCells sl cells bank) key).isSome = true := by
  induction cells generalizing bank with
  | nil => exact h
  | cons q cells ih => exact ih (isSome_mapGet_mapSet _ _ h)

theorem isSome_enterCells_of_mem {sl : Ident} {cells : List (Nat × RegCell)} {q : Nat × RegCell} (hq : q ∈ cells)
    (bank : List (Nat × RegCell)) : (mapGet (enterCells sl cells bank) (cellKey sl q.1)).isSome = true := by
  induction hq generalizing bank with
  | head cells => exact isSome_enterCells_of_isSome sl cells (by simp)
  | tail _ _ ih => exact ih _

theorem isSome_enterSlaves_of_isSome (slaves : List (Ident × SlaveKind)) {bank : List (Nat × RegCell)} {key : Nat}
    (h : (mapGet bank key).isSome = true) : (mapGet (enterSlaves slaves bank) key).isSome = true := by
  induction slaves generalizing bank with
  | nil => exact h
  | cons e slaves ih => exact ih (isSome_enterCells_of_isSome _ _ h)

theorem isSome_enterSlaves_of_mem {slaves : List (Ident × SlaveKind)} {e : Ident × SlaveKind} (he : e ∈ slaves)
    {q : Nat × RegCell} (hq : q ∈ resetCells e.2) (bank : List (Nat × RegCell)) :
    (mapGet (enterSlaves slaves bank) (cellKey e.1 q.1)).isSome = true := by
  induction he generalizing bank with
  | head slaves => exact isSome_enterSlaves_of_isSome slaves (isSome_enterCells_of_mem hq bank)
  | tail _ _ ih => exact ih _

/-- The fixed register maps are complete at reset (41_register_bank.md R110). -/
theorem isSome_resetBank {c : Cfg} {sl : Ident} {k : SlaveKind} (hk : kindOf c sl = some k) {q : Nat × RegCell}
    (hq : q ∈ resetCells k) : (mapGet (resetBank c) (cellKey sl q.1)).isSome = true :=
  isSome_enterSlaves_of_mem (mem_slaves_of_kindOf hk) hq []

theorem mapWf_enterCells (sl : Ident) (cells : List (Nat × RegCell)) {bank : List (Nat × RegCell)}
    (h : mapWf bank = true) : mapWf (enterCells sl cells bank) = true := by
  induction cells generalizing bank with
  | nil => exact h
  | cons q cells ih => exact ih (mapWf_mapSet _ _ _ h)

theorem mapWf_enterSlaves (slaves : List (Ident × SlaveKind)) {bank : List (Nat × RegCell)} (h : mapWf bank = true) :
    mapWf (enterSlaves slaves bank) = true := by
  induction slaves generalizing bank with
  | nil => exact h
  | cons e slaves ih => exact ih (mapWf_enterCells _ _ h)

theorem resetBank_currentValue {c : Cfg} {key : Nat} {cell : RegCell} (h : mapGet (resetBank c) key = some cell) :
    cell.currentValue = cell.resetValue := by
  obtain ⟨sl, k, q, hq, hp⟩ := mem_resetBank (mem_of_mapGet_eq_some h)
  cases hp
  obtain ⟨-, -, -, hcur⟩ := resetCells_spec hq
  exact hcur

/-- A cell at reset holds the value of its offset. -/
theorem resetBank_value {c : Cfg} {sl : Ident} {off : Nat} {cell : RegCell} (ho : off < 2 ^ 32)
    (h : mapGet (resetBank c) (cellKey sl off) = some cell) : cell.currentValue = fixedResetValue off := by
  obtain ⟨sl', k, q, hq, hp⟩ := mem_resetBank (mem_of_mapGet_eq_some h)
  obtain ⟨hlt, -, hreset, hcur⟩ := resetCells_spec hq
  obtain ⟨hkey, rfl⟩ := Prod.mk.inj hp
  obtain ⟨-, rfl⟩ := cellKey_inj ho hlt hkey
  rw [hcur, hreset]

theorem cellValue_resetOf {c : Cfg} {sl : Ident} {off : Nat} (ho : off < 2 ^ 32)
    (h : (mapGet (resetBank c) (cellKey sl off)).isSome = true) :
    cellValue (State.resetOf c) sl off = fixedResetValue off := by
  obtain ⟨cell, hcell⟩ := Option.isSome_iff_exists.1 h
  have hget : mapGet (State.resetOf c).bank (cellKey sl off) = some cell := hcell
  rw [cellValue, hget]
  exact resetBank_value ho hcell

/-- Every cell but the timers' `TMR_CMP_LO` reads 0, and so does an offset without a cell. -/
theorem cellValue_resetOf_eq_zero (c : Cfg) (sl : Ident) {off : Nat} (ho : off < 2 ^ 32) (hne : off ≠ 0x08) :
    cellValue (State.resetOf c) sl off = 0 := by
  by_cases h : (mapGet (resetBank c) (cellKey sl off)).isSome = true
  · rw [cellValue_resetOf ho h, fixedResetValue, if_neg hne]
  · have hget : mapGet (State.resetOf c).bank (cellKey sl off) = none := Option.not_isSome_iff_eq_none.1 h
    rw [cellValue, hget]

theorem cellValue_resetOf_cmpLo {c : Cfg} {d : Ident} (hk : kindOf c d = some .tmr) :
    cellValue (State.resetOf c) d 0x08 = 0xFFFFFFFF :=
  cellValue_resetOf (by norm_num) (isSome_resetBank hk (q := (0x08, newCell "TMR_CMP_LO" 0xFFFFFFFF)) (by decide))

/-! ### Lines, outputs and run states at reset -/

theorem enableOf_resetOf (c : Cfg) (ctl : Ctrl) : enableOf (State.resetOf c) ctl = 0 :=
  cellValue_resetOf_eq_zero c _ (by norm_num) (by norm_num)

theorem controller_resetOf_raw (c : Cfg) (ctl : Ctrl) : (controller (State.resetOf c) ctl).raw = 0 := by
  cases ctl <;> rfl

theorem lineDriver_resetOf_sec (c : Cfg) (id : Nat) : lineDriver (State.resetOf c) .sec id = none := rfl

/-- The only wire at reset is the cascade (10_state.md R18). -/
theorem lineDriver_resetOf_pri (c : Cfg) (id : Nat) :
    lineDriver (State.resetOf c) .pri id = if c.cascade = some id then some .secAggr else none := by
  show mapGet (resetPriConn c) id = _
  unfold resetPriConn
  cases c.cascade <;> simp [mapGet]

theorem secAggr_resetOf (c : Cfg) : secAggr (State.resetOf c) = false := by
  simp [secAggr, secMasked, enableOf_resetOf]

theorem priMasked_resetOf (c : Cfg) : priMasked (State.resetOf c) = 0 := by
  simp [priMasked, enableOf_resetOf]

theorem irq_resetOf (c : Cfg) : irq (State.resetOf c) = false := by
  simp [irq, priMasked_resetOf]

theorem fiq_resetOf (c : Cfg) : fiq (State.resetOf c) = false := by
  simp [fiq, priMasked_resetOf]

theorem runState_resetOf (c : Cfg) (d : Ident) : runState (State.resetOf c) d = .idle := by
  have hget : mapGet (State.resetOf c).run d.toNat = if d ∈ autonomousIds c then some .idle else none :=
    mapGet_foldl_mapSet _ _ _ _
  rw [runState, hget]
  by_cases h : d ∈ autonomousIds c <;> simp [h]

/-- Settles O56: the components of the state after reset, one fact for each. -/
theorem resetValues : Obligations.ResetValues := by
  intro c
  have htmr : ∀ d off, off < 2 ^ 32 → off ≠ 0x08 → cellValue (State.resetOf c) d off = 0 :=
    fun d _ => cellValue_resetOf_eq_zero c d
  exact ⟨rfl, rfl, rfl, rfl, rfl, fun _ _ => resetBank_currentValue, enableOf_resetOf c,
    fun d hd => ⟨htmr d _ (by norm_num) (by norm_num), htmr d _ (by norm_num) (by norm_num),
      cellValue_resetOf_cmpLo hd, htmr d _ (by norm_num) (by norm_num), htmr d _ (by norm_num) (by norm_num)⟩,
    lineDriver_resetOf_sec c, lineDriver_resetOf_pri c, fun d _ => runState_resetOf c d, irq_resetOf c,
    fiq_resetOf c, secAggr_resetOf c⟩

/-! ### The invariants at reset -/

theorem rangesDisjoint_resetOf (c : Cfg) : RangesDisjoint (State.resetOf c) :=
  ⟨fun _ hr => absurd hr List.not_mem_nil, List.Pairwise.nil⟩

theorem mapsCanonical_resetOf (c : Cfg) : MapsCanonical (State.resetOf c) := by
  refine ⟨rfl, mapWf_enterSlaves _ rfl, mapWf_foldl_mapSet _ _ _ rfl, rfl, ?_, rfl⟩
  show mapWf (resetPriConn c) = true
  unfold resetPriConn
  cases c.cascade <;> rfl

theorem isCascade_pri_iff {c : Cfg} {id : Nat} : isCascade c .pri id = true ↔ c.cascade = some id := by
  simp [isCascade]

theorem linesWired_resetOf (c : Cfg) : LinesWired (State.resetOf c) where
  raw_driven ctl id h := by simp [controller_resetOf_raw] at h
  driver_legal ctl id drv h := by
    cases ctl
    · cases h
    · rw [lineDriver_resetOf_pri] at h
      split at h
      · cases h
        exact .inl ⟨isCascade_pri_iff.2 ‹_›, rfl⟩
      · cases h
  cascade_wired id h := (lineDriver_resetOf_pri c id).trans (if_pos (isCascade_pri_iff.1 h))

theorem banksComplete_resetOf (c : Cfg) : BanksComplete (State.resetOf c) where
  fixed_cells sl k hk p hp := hasCell_iff.2 ⟨(resetCells_spec hp).1, isSome_resetBank hk hp⟩
  offsets_aligned p hp := by
    obtain ⟨sl, k, q, hq, rfl⟩ := mem_resetBank hp
    obtain ⟨-, hal, -⟩ := resetCells_spec hq
    exact (cellKey_mod_four sl q.1).trans hal

theorem enablesMasked_resetOf (c : Cfg) : EnablesMasked (State.resetOf c) := by
  intro _ ctl
  simp [enableOf_resetOf]

theorem tmrStat_resetOf (c : Cfg) (d : Ident) : cellValue (State.resetOf c) d 0x0C = 0 :=
  cellValue_resetOf_eq_zero c d (by norm_num) (by norm_num)

theorem statsOneBit_resetOf (c : Cfg) : StatsOneBit (State.resetOf c) := by
  intro d _
  simp [tmrStat_resetOf]

theorem lifecycleOk_resetOf (c : Cfg) : LifecycleOk (State.resetOf c) where
  halt_flag := by simp [State.resetOf]
  not_started _ := runState_resetOf c
  started h := by cases h
  stopped h := by cases h

theorem pend_resetOf (c : Cfg) (d : Ident) : pend (State.resetOf c) d = false := by
  simp [pend, tmrStat_resetOf]

theorem pendMatchesLine_resetOf (c : Cfg) : PendMatchesLine (State.resetOf c) where
  raw_eq_pend d l _ _ _ := by simp [controller_resetOf_raw, pend_resetOf]
  config_clear _ d _ := pend_resetOf c d

/-- Settles O57: each part of the invariant at reset. -/
theorem invariantsHoldAtReset : Obligations.InvariantsHoldAtReset := fun c =>
  ⟨⟨rangesDisjoint_resetOf c, mapsCanonical_resetOf c, linesWired_resetOf c, banksComplete_resetOf c,
    enablesMasked_resetOf c, statsOneBit_resetOf c, lifecycleOk_resetOf c⟩, pendMatchesLine_resetOf c⟩

end Sys2Proof.Proofs
end

section
/-! The access procedure of the Bus by its tests, and its two variants, which agree at an aligned offset (42_bus.md R140,
R141; 20_memory.md R47 to R49). -/

namespace Sys2Proof.Proofs

open Sys2Proof.Machine Sys2Proof.Safety Sys2Proof.Laws

variable {s : State} {i : Instr} {a : Access} {addr : DWord} {len : Nat} {r : Range}

/-! ### The access behind a data operation -/

/-- The seven `READ*` are one procedure at their length and variant (42_bus.md R142 to R148). -/
theorem exec_of_accessOf_read (h : accessOf i = some a) (hd : a.dir = .read) (s : State) :
    exec i s = .next (busRead a.master a.addr a.len a.unaligned (typedValue a.len) s) := by
  cases i with
  | read8 | read16 | read32 | read64 | read16u | read32u | read64u => cases h; rfl
  | write8 | write16 | write32 | write64 | write16u | write32u | write64u => cases h; cases hd
  | _ => cases h

/-- The seven `WRITE*` are one procedure at their length and variant (42_bus.md R149 to R155). -/
theorem exec_of_accessOf_write (h : accessOf i = some a) (hd : a.dir = .write) (s : State) :
    exec i s = .next (busWrite a.master a.addr a.len a.unaligned (writeValue i) s) := by
  cases i with
  | read8 | read16 | read32 | read64 | read16u | read32u | read64u => cases h; cases hd
  | write8 | write16 | write32 | write64 | write16u | write32u | write64u => cases h; rfl
  | _ => cases h

/-- A failed test of the access procedure ends the operation in the bus fault (60_exceptions.md R231, R236). -/
theorem faultsWith_of_routeAccess {kind : BusFaultKind} (h : accessOf i = some a)
    (hr : routeAccess s a.master a.addr a.len a.unaligned a.dir = .fault kind) : FaultsWith i s a kind := by
  rw [FaultsWith]
  cases hd : a.dir with
  | read =>
    rw [hd] at hr
    rw [exec_of_accessOf_read h hd, busRead, hr]
    rfl
  | write =>
    rw [hd] at hr
    rw [exec_of_accessOf_write h hd, busWrite, hr]
    rfl

/-! ### The tests of an access -/

theorem mem_ranges_of_mapped (h : Mapped s addr r) : r ∈ s.ranges := List.mem_of_find?_eq_some h

theorem routeAccess_of_unmapped (m : Ident) (len : Nat) (u : Bool) (dir : Dir) (hp : s.phase ≠ .failed)
    (h : decodeAddr s.ranges addr = none) : routeAccess s m addr len u dir = .fault .unmapped := by
  simp only [routeAccess, if_neg hp, h]

/-- Once an address is mapped, the range's end, the alignment and the capability decide, with one outcome where one of them
fails (42_bus.md R140, R141). -/
theorem routeAccess_of_mapped (m : Ident) (len : Nat) (u : Bool) (dir : Dir) (hp : s.phase ≠ .failed)
    (h : Mapped s addr r) :
    routeAccess s m addr len u dir =
      if localOffset r addr + len ≤ rangeSize r ∧ (u = false → localOffset r addr % len = 0) ∧
          canAccess s r.slave m (localOffset r addr) len dir = true
      then .hit r else .fault .unsupportedAccess := by
  split
  · rename_i htests
    obtain ⟨hend, halign, hcan⟩ := htests
    exact routeAccess_hit.2 ⟨⟨hp, h, hend⟩, halign, hcan⟩
  · rename_i htests
    rw [Mapped] at h
    simp only [routeAccess, if_neg hp, h, endsInside, isAligned]
    split_ifs <;> simp_all

/-- Settles O11: past the range's end or misaligned, one of the tests of a mapped address fails. -/
theorem rangeEndAndAlignmentFault : Obligations.RangeEndAndAlignmentFault := by
  intro i s a r hi hp hm hbad
  refine faultsWith_of_routeAccess hi ?_
  rw [routeAccess_of_mapped _ _ _ _ hp hm, if_neg]
  rintro ⟨hend, halign, -⟩
  rcases hbad with hpast | ⟨hu, hmis⟩
  · omega
  · exact hmis (halign hu)

/-! ### The unaligned variants at an aligned offset -/

theorem slaveReadU_of_aligned {off : Nat} (h : off % len = 0) (sl m : Ident) (s : State) :
    slaveReadU sl m off len s = slaveRead sl m off len s := if_pos (decide_eq_true h)

theorem slaveWriteU_of_aligned {off : Nat} (h : off % len = 0) (sl m : Ident) (v : DWord) (s : State) :
    slaveWriteU sl m off len v s = slaveWrite sl m off len v s := if_pos (decide_eq_true h)

/-- At an aligned offset the alignment test, the only one that reads the variant, passes for both. -/
theorem routeAccess_unaligned_of_aligned (h : ∀ r, Mapped s addr r → localOffset r addr % len = 0) (m : Ident)
    (dir : Dir) : routeAccess s m addr len true dir = routeAccess s m addr len false dir := by
  by_cases hp : s.phase = .failed
  · rw [routeAccess_refused.2 hp, routeAccess_refused.2 hp]
  · cases hd : decodeAddr s.ranges addr with
    | none => rw [routeAccess_of_unmapped _ _ _ _ hp hd, routeAccess_of_unmapped _ _ _ _ hp hd]
    | some r =>
      have halign := h r hd
      simp [routeAccess_of_mapped _ _ _ _ hp hd, halign]

theorem busRead_unaligned_of_aligned (h : ∀ r, Mapped s addr r → localOffset r addr % len = 0) (m : Ident)
    (wrap : DWord → Data) : busRead m addr len true wrap s = busRead m addr len false wrap s := by
  simp only [busRead, routeAccess_unaligned_of_aligned h]
  cases hr : routeAccess s m addr len false .read with
  | refusedPhase | fault => rfl
  | hit r =>
    obtain ⟨⟨-, hm, -⟩, -⟩ := routeAccess_hit.1 hr
    simp [slaveReadU_of_aligned (h r hm)]

theorem busWrite_unaligned_of_aligned (h : ∀ r, Mapped s addr r → localOffset r addr % len = 0) (m : Ident)
    (v : DWord) : busWrite m addr len true v s = busWrite m addr len false v s := by
  simp only [busWrite, routeAccess_unaligned_of_aligned h]
  cases hr : routeAccess s m addr len false .write with
  | refusedPhase | fault => rfl
  | hit r =>
    obtain ⟨⟨-, hm, -⟩, -⟩ := routeAccess_hit.1 hr
    simp [slaveWriteU_of_aligned (h r hm)]

/-- Settles O22: the procedures of the two variants agree at each of the three lengths. -/
theorem alignedVariantsAgree : Obligations.AlignedVariantsAgree := fun _ m _ =>
  ⟨fun h => ⟨congrArg proceed (busRead_unaligned_of_aligned h m _),
      fun _ => congrArg proceed (busWrite_unaligned_of_aligned h m _)⟩,
    fun h => ⟨congrArg proceed (busRead_unaligned_of_aligned h m _),
      fun _ => congrArg proceed (busWrite_unaligned_of_aligned h m _)⟩,
    fun h => ⟨congrArg proceed (busRead_unaligned_of_aligned h m _),
      fun _ => congrArg proceed (busWrite_unaligned_of_aligned h m _)⟩⟩

end Sys2Proof.Proofs
end

section
/-! The master identity of a slave without a `SUPPORTS_M`: it reaches no capability, no access and no result
(20_memory.md R42; 60_exceptions.md R246). -/

namespace Sys2Proof.Proofs

open Sys2Proof.Machine Sys2Proof.Safety Sys2Proof.Laws

variable {s : State} {sl : Ident}

/-! ### One slave -/

theorem supports_master_irrel (h : sl ∉ s.cfg.masterFilter) (m m' : Ident) (off len : Nat) (dir : Dir) :
    supports s sl m off len dir = supports s sl m' off len dir := by
  simp [supports, kindSupports, masterAdmits, h, seenMaster_plain h m m']

theorem canAccess_master_irrel (h : sl ∉ s.cfg.masterFilter) (m m' : Ident) (off len : Nat) (dir : Dir) :
    canAccess s sl m off len dir = canAccess s sl m' off len dir := by
  simp only [canAccess, supports_master_irrel h m m']

theorem slaveRead_master_irrel (h : sl ∉ s.cfg.masterFilter) (m m' : Ident) (off len : Nat) :
    slaveRead sl m off len s = slaveRead sl m' off len s := by
  simp only [slaveRead, seenMaster_plain h m m']

theorem slaveWrite_master_irrel (h : sl ∉ s.cfg.masterFilter) (m m' : Ident) (off len : Nat) (v : DWord) :
    slaveWrite sl m off len v s = slaveWrite sl m' off len v s := by
  simp only [slaveWrite, seenMaster_plain h m m']

theorem readBytes_master_irrel (h : sl ∉ s.cfg.masterFilter) (m m' : Ident) (off n : Nat) :
    readBytes sl m off n s = readBytes sl m' off n s := by
  induction n generalizing off s with
  | zero => rfl
  | succ n ih =>
    have hcfg := (deviceSteps_sameFabric (slaveRead_steps sl m' off 1 s)).cfg
    simp only [readBytes, slaveRead_master_irrel h m m', ih (hcfg ▸ h)]

theorem writeBytes_master_irrel (h : sl ∉ s.cfg.masterFilter) (m m' : Ident) (off : Nat) (bs : List Byte)
    (hb : off + bs.length ≤ 2 ^ 64) : writeBytes sl m off bs s = writeBytes sl m' off bs s := by
  induction bs generalizing off s with
  | nil => rfl
  | cons b bs ih =>
    rw [List.length_cons] at hb
    have hcfg := (deviceSteps_sameFabric (slaveWrite_steps sl m' off 1 (b.setWidth 64) s (by omega))).cfg
    simp only [writeBytes, slaveWrite_master_irrel h m m']
    exact ih (hcfg ▸ h) (off + 1) (by omega)

theorem slaveReadU_master_irrel (h : sl ∉ s.cfg.masterFilter) (m m' : Ident) (off len : Nat) :
    slaveReadU sl m off len s = slaveReadU sl m' off len s := by
  simp only [slaveReadU, slaveRead_master_irrel h m m', readBytes_master_irrel h m m']

theorem slaveWriteU_master_irrel (h : sl ∉ s.cfg.masterFilter) (m m' : Ident) {off len : Nat} (v : DWord)
    (hb : off + len ≤ 2 ^ 64) : slaveWriteU sl m off len v s = slaveWriteU sl m' off len v s := by
  simp only [slaveWriteU, slaveWrite_master_irrel h m m']
  rw [writeBytes_master_irrel h m m' off (bytesLe v len) (by rwa [bytesLe_length])]

/-! ### The Bus -/

/-- No bound slave has a `SUPPORTS_M` (20_memory.md R42). -/
def NoMasterFilter (s : State) : Prop := ∀ r ∈ s.ranges, r.slave ∉ s.cfg.masterFilter

/-- Two outcomes of an operation are the same state and the same response record. The response itself may differ: that of
a bus fault keeps the master, which the record leaves out (60_exceptions.md R231; 30_encoding.md R75). -/
def SameResult (t u : State) : Prop :=
  { t with response := none } = { u with response := none } ∧
    t.response.map responseRecord = u.response.map responseRecord

theorem SameResult.refl (t : State) : SameResult t t := ⟨rfl, rfl⟩

theorem sameResult_raiseBusFault (kind : BusFaultKind) (addr : DWord) (len : Nat) (dir : Dir) (m m' : Ident)
    (s : State) : SameResult (raiseBusFault kind addr len dir m s) (raiseBusFault kind addr len dir m' s) := by
  cases kind <;> exact ⟨rfl, rfl⟩

theorem routeAccess_master_irrel (h : NoMasterFilter s) (m m' : Ident) (addr : DWord) (len : Nat) (u : Bool) (dir : Dir) :
    routeAccess s m addr len u dir = routeAccess s m' addr len u dir := by
  by_cases hp : s.phase = .failed
  · rw [routeAccess_refused.2 hp, routeAccess_refused.2 hp]
  · cases hd : decodeAddr s.ranges addr with
    | none => rw [routeAccess_of_unmapped _ _ _ _ hp hd, routeAccess_of_unmapped _ _ _ _ hp hd]
    | some r =>
      have hm : Mapped s addr r := hd
      rw [routeAccess_of_mapped _ _ _ _ hp hm, routeAccess_of_mapped _ _ _ _ hp hm,
        canAccess_master_irrel (h r (mem_ranges_of_mapped hm)) m m']

theorem sameResult_busRead (h : NoMasterFilter s) (m m' : Ident) (addr : DWord) (len : Nat) (u : Bool)
    (wrap : DWord → Data) : SameResult (busRead m addr len u wrap s) (busRead m' addr len u wrap s) := by
  simp only [busRead, routeAccess_master_irrel h m m']
  cases hr : routeAccess s m' addr len u .read with
  | refusedPhase => exact .refl _
  | fault kind => exact sameResult_raiseBusFault _ _ _ _ _ _ _
  | hit r =>
    obtain ⟨⟨-, hm, -⟩, -⟩ := routeAccess_hit.1 hr
    have hsl := h r (mem_ranges_of_mapped hm)
    simp only [slaveReadU_master_irrel hsl m m', slaveRead_master_irrel hsl m m']
    exact .refl _

theorem sameResult_busWrite (h : NoMasterFilter s) (m m' : Ident) (addr : DWord) (len : Nat) (u : Bool)
    (v : DWord) : SameResult (busWrite m addr len u v s) (busWrite m' addr len u v s) := by
  simp only [busWrite, routeAccess_master_irrel h m m']
  cases hr : routeAccess s m' addr len u .write with
  | refusedPhase => exact .refl _
  | fault kind => exact sameResult_raiseBusFault _ _ _ _ _ _ _
  | hit r =>
    obtain ⟨hin, -⟩ := routeAccess_hit.1 hr
    have ⟨_, hm, _⟩ := hin
    have hsl := h r (mem_ranges_of_mapped hm)
    simp only [slaveWriteU_master_irrel hsl m m' v (inRange_lt hin), slaveWrite_master_irrel hsl m m']
    exact .refl _

theorem probeAnswer_master_irrel (h : NoMasterFilter s) (m m' : Ident) (addr : DWord) (len : Nat) (dir : Dir) :
    probeAnswer s m addr len dir = probeAnswer s m' addr len dir := by
  cases hd : decodeAddr s.ranges addr with
  | none => simp only [probeAnswer, hd]
  | some r => simp only [probeAnswer, hd, canAccess_master_irrel (h r (mem_ranges_of_mapped hd)) m m']

theorem sameResult_busProbe (h : NoMasterFilter s) (m m' : Ident) (addr : DWord) (len : Nat) (dir : Dir) :
    SameResult (busProbe m addr len dir s) (busProbe m' addr len dir s) := by
  rw [busProbe, busProbe, probeAnswer_master_irrel h m m']
  exact .refl _

/-- Settles O18: the accesses and the probes go through the Bus, and every other operation has no master. -/
theorem masterChangesNoResult : Obligations.MasterChangesNoResult := by
  intro i s m h
  cases i with
  | read8 | read16 | read32 | read64 | read16u | read32u | read64u =>
    exact ⟨_, _, rfl, rfl, sameResult_busRead h _ _ _ _ _ _⟩
  | write8 | write16 | write32 | write64 | write16u | write32u | write64u =>
    exact ⟨_, _, rfl, rfl, sameResult_busWrite h _ _ _ _ _ _⟩
  | canread | canwrite => exact ⟨_, _, rfl, rfl, sameResult_busProbe h _ _ _ _ _⟩
  | _ => exact ⟨_, _, rfl, rfl, SameResult.refl _⟩

end Sys2Proof.Proofs
end

section
/-! What a read of the fabric's own slaves leaves: a RAM, a controller and a timer answer a read without any effect
(20_memory.md R52; 40_slave_core.md R94, R100; 41_register_bank.md R113). -/

namespace Sys2Proof.Proofs

open Sys2Proof.Machine Sys2Proof.Safety Sys2Proof.Laws

variable {s t : State} {sl : Ident} {k : SlaveKind}

/-- The kinds of slave whose functions the spec gives itself: no function of theirs is open. -/
def FixedKind (k : SlaveKind) : Prop := k = .sec ∨ k = .pri ∨ k = .tmr ∨ ∃ size, k = .ram size

theorem readOverride_snd (h : FixedKind k) (sl : Ident) (off : Nat) (s : State) : (readOverride sl k off s).2 = s := by
  rcases h with rfl | rfl | rfl | ⟨size, rfl⟩ <;> rfl

theorem readDefault_snd (h : FixedKind k) (sl : Ident) (off : Nat) (s : State) : (readDefault sl k off s).2 = s := by
  rcases h with rfl | rfl | rfl | ⟨size, rfl⟩ <;> rfl

theorem bankReadWord_snd (h : FixedKind k) (sl : Ident) (off : Nat) (s : State) : (bankReadWord sl k off s).2 = s := by
  unfold bankReadWord
  cases bankClass s sl k off .read with
  | override => exact readOverride_snd h sl off s
  | dflt => exact readDefault_snd h sl off s
  | cell | reserved | undecoded => rfl

theorem bankRead_snd (h : FixedKind k) (sl : Ident) (off len : Nat) (s : State) : (bankRead sl k off len s).2 = s := by
  unfold bankRead
  split
  · simp only [bankRead64, bankReadWord_snd h]
  · exact bankReadWord_snd h sl off s

theorem slaveRead_snd (h : FixedKind k) (hk : kindOf s.cfg sl = some k) (m : Ident) (off len : Nat) :
    (slaveRead sl m off len s).2 = s := by
  have hbank := bankRead_snd h sl off len s
  simp only [slaveRead, hk]
  rcases h with rfl | rfl | rfl | ⟨size, rfl⟩
  · exact hbank
  · exact hbank
  · exact hbank
  · rfl

theorem readBytes_snd (h : FixedKind k) (hk : kindOf s.cfg sl = some k) (m : Ident) (off n : Nat) :
    (readBytes sl m off n s).2 = s := by
  induction n generalizing off with
  | zero => rfl
  | succ n ih =>
    simp only [readBytes, slaveRead_snd h hk]
    exact ih (off + 1)

theorem slaveReadU_snd (h : FixedKind k) (hk : kindOf s.cfg sl = some k) (m : Ident) (off len : Nat) :
    (slaveReadU sl m off len s).2 = s := by
  unfold slaveReadU
  split
  · exact slaveRead_snd h hk m off len
  · exact readBytes_snd h hk m off len

/-- A read that reaches no slave but one of a fixed kind ends in a response and nothing else. -/
theorem busRead_eq_setResponse {addr : DWord} (hp : s.phase ≠ .failed)
    (h : ∀ r, Mapped s addr r → ∃ k, kindOf s.cfg r.slave = some k ∧ FixedKind k) (m : Ident) (len : Nat) (u : Bool)
    (wrap : DWord → Data) : ∃ resp, busRead m addr len u wrap s = s.setResponse (some resp) := by
  unfold busRead
  cases hr : routeAccess s m addr len u .read with
  | refusedPhase => exact absurd (routeAccess_refused.1 hr) hp
  | fault kind => exact ⟨_, rfl⟩
  | hit r =>
    obtain ⟨⟨-, hm, -⟩, -⟩ := routeAccess_hit.1 hr
    obtain ⟨k, hk, hfix⟩ := h r hm
    cases u
    · exact ⟨_, congrArg (respond _) (slaveRead_snd hfix hk _ _ _)⟩
    · exact ⟨_, congrArg (respond _) (slaveReadU_snd hfix hk _ _ _)⟩

theorem busProbe_of_not_failed (hp : s.phase ≠ .failed) (m : Ident) (addr : DWord) (len : Nat) (dir : Dir) :
    busProbe m addr len dir s = respond (.flag (probeAnswer s m addr len dir)) s := if_neg hp

theorem queryLevel_of_not_failed (hp : s.phase ≠ .failed) (level : State → Bool) :
    queryLevel level s = respond (.flag (level s)) s := if_neg hp

/-- The reads of 20_memory.md R52 have no effect but their response. -/
theorem exec_eq_setResponse {i : Instr} (hp : s.phase ≠ .failed)
    (h : (∃ a, accessOf i = some a ∧ a.dir = .read ∧
        ∀ r, Mapped s a.addr r → ∃ k, kindOf s.cfg r.slave = some k ∧ FixedKind k) ∨
      (∃ m addr len, i = .canread m addr len ∨ i = .canwrite m addr len) ∨ i = .irqQ ∨ i = .fiqQ) :
    ∃ resp, exec i s = .next (s.setResponse (some resp)) := by
  rcases h with ⟨a, hi, hd, hfix⟩ | ⟨m, addr, len, rfl | rfl⟩ | rfl | rfl
  · obtain ⟨resp, hresp⟩ := busRead_eq_setResponse hp hfix a.master a.len a.unaligned (typedValue a.len)
    exact ⟨resp, (exec_of_accessOf_read hi hd s).trans (congrArg proceed hresp)⟩
  · exact ⟨_, congrArg proceed (busProbe_of_not_failed hp m addr len .read)⟩
  · exact ⟨_, congrArg proceed (busProbe_of_not_failed hp m addr len .write)⟩
  · exact ⟨_, congrArg proceed (queryLevel_of_not_failed hp irq)⟩
  · exact ⟨_, congrArg proceed (queryLevel_of_not_failed hp fiq)⟩

/-- Settles O34: the next state is the old one with a response. -/
theorem readsHaveNoSideEffect : Obligations.ReadsHaveNoSideEffect := by
  intro i s t hp hexec h
  obtain ⟨resp, hresp⟩ := exec_eq_setResponse hp h
  rw [hresp] at hexec
  cases hexec
  rfl

end Sys2Proof.Proofs
end

section
/-! The counter of a timer: one 64-bit read answers it whole, and a completed tick adds one (20_memory.md R51;
44_device_threads.md R206; 70_reset_and_hazards.md R272). -/

namespace Sys2Proof.Proofs

open Sys2Proof.Machine Sys2Proof.Safety Sys2Proof.Laws

variable {s t : State} {d : Ident}

/-- The two cells of a timer's counter exist. -/
structure HasCounter (s : State) (d : Ident) : Prop where
  low : hasCell s d 0x00 = true
  high : hasCell s d 0x04 = true

theorem hasCounter_of_banksComplete (h : BanksComplete s) (hk : kindOf s.cfg d = some .tmr) : HasCounter s d where
  low := h.fixed_cells d .tmr hk (0x00, newCell "TMR_CNT_LO" 0) (by decide)
  high := h.fixed_cells d .tmr hk (0x04, newCell "TMR_CNT_HI" 0) (by decide)

/-! ### Reading the counter -/

/-- A cell with no override before it is a plain cell (41_register_bank.md R111). -/
theorem bankClass_eq_cell {sl : Ident} {k : SlaveKind} {off : Nat} {dir : Dir} (hno : off ∉ overridesOf k dir)
    (h : hasCell s sl off = true) : bankClass s sl k off dir = .cell := by
  simp [bankClass, hno, h]

theorem bankClass_counter_low (h : HasCounter s d) : bankClass s d .tmr 0x00 .read = .cell :=
  bankClass_eq_cell (by decide) h.low

theorem bankClass_counter_high (h : HasCounter s d) : bankClass s d .tmr 0x04 .read = .cell :=
  bankClass_eq_cell (by decide) h.high

/-- The whitelist of a timer holds the counter's offset, and both its words decode (41_register_bank.md R116). -/
theorem canAccess_counter (hk : PlainSlave s d .tmr) (h : HasCounter s d) (m : Ident) :
    canAccess s d m 0 8 .read = true := by
  obtain ⟨hkind, hplain⟩ := hk
  have hsup : bankSupports s d .tmr 0 8 .read = true := by
    simp [bankSupports, bankSupports64, whitelist64, bankDecodes, bankClass_counter_low h, bankClass_counter_high h]
  have haligned : isAligned 0 8 = true := by decide
  rw [canAccess, if_pos haligned]
  exact supports_eq_true.2 ⟨.tmr, hkind, hsup, fun hm => absurd hm hplain⟩

theorem slaveRead_counter (hk : kindOf s.cfg d = some .tmr) (h : HasCounter s d) (m : Ident) :
    slaveRead d m 0 8 s = (tmrCount s d, s) := by
  simp [slaveRead, hk, bankRead, bankRead64, bankReadWord, bankClass_counter_low h, bankClass_counter_high h, tmrCount]

theorem busRead_counter {addr : DWord} {r : Range} (hin : InRange s addr 8 r) (hk : PlainSlave s r.slave .tmr)
    (hoff : localOffset r addr = 0) (h : HasCounter s r.slave) (m : Ident) (u : Bool) (wrap : DWord → Data) :
    busRead m addr 8 u wrap s = respond (wrap (tmrCount s r.slave)) s := by
  have hroute : routeAccess s m addr 8 u .read = .hit r :=
    routeAccess_hit.2 ⟨hin, fun _ => by rw [hoff], by rw [hoff]; exact canAccess_counter hk h m⟩
  obtain ⟨hkind, -⟩ := hk
  cases u <;> simp [busRead, hroute, hoff, slaveReadU_of_aligned, slaveRead_counter hkind h]

theorem answers_counter {i : Instr} {m : Ident} {addr : DWord} {u : Bool} {r : Range}
    (hi : accessOf i = some ⟨m, addr, 8, u, .read⟩) (hin : InRange s addr 8 r) (hk : PlainSlave s r.slave .tmr)
    (hoff : localOffset r addr = 0) (h : HasCounter s r.slave) : Answers i s (.dword (tmrCount s r.slave)) :=
  (exec_of_accessOf_read hi rfl s).trans (congrArg proceed (busRead_counter hin hk hoff h m u _))

/-! ### Ticking the counter -/

theorem joinWords_highWord_lowWord (v : DWord) : joinWords (highWord v) (lowWord v) = v :=
  (BitVec.extractLsb'_append_extractLsb'_eq_extractLsb' rfl).trans BitVec.extractLsb'_eq_self

theorem deviceSetLine_bank (d : Ident) (ctl : Ctrl) (id : Nat) (b : Bool) (s : State) :
    (deviceSetLine d ctl id b s).bank = s.bank := by
  unfold deviceSetLine
  split
  · cases ctl <;> rfl
  · rfl

theorem driveOutput_bank (d : Ident) (b : Bool) (s : State) : (driveOutput d b s).bank = s.bank := by
  unfold driveOutput
  split
  · exact deviceSetLine_bank _ _ _ _ _
  · rfl

theorem tmrCount_frame (h : t.bank = s.bank) (d : Ident) : tmrCount t d = tmrCount s d := by
  rw [tmrCount, tmrCount, cellValue_frame h, cellValue_frame h]

theorem cellKey_ne_of_offset_ne (d : Ident) {off off' : Nat} (h : off ≠ off') : cellKey d off ≠ cellKey d off' :=
  fun hk => h (Nat.add_left_cancel hk)

/-- A write to both words of the counter is a write of the counter. -/
theorem tmrCount_setCell (h : HasCounter s d) (v : DWord) :
    tmrCount (setCell d 0x04 (highWord v) (setCell d 0x00 (lowWord v) s)) d = v := by
  rw [tmrCount, cellValue_setCell_same _ _ _ _ (by rw [hasCell_setCell]; exact h.high),
    cellValue_setCell_other _ _ _ _ _ _ (cellKey_ne_of_offset_ne d (by decide)),
    cellValue_setCell_same _ _ _ _ h.low, joinWords_highWord_lowWord]

theorem tmrCount_setCell_stat (v : Word) (s : State) (d : Ident) :
    tmrCount (setCell d 0x0C v s) d = tmrCount s d := by
  rw [tmrCount, tmrCount, cellValue_setCell_other _ _ _ _ _ _ (cellKey_ne_of_offset_ne d (by decide)),
    cellValue_setCell_other _ _ _ _ _ _ (cellKey_ne_of_offset_ne d (by decide))]

/-- The match of the comparator writes `PEND` and the line, not the counter (44_device_threads.md R206). -/
theorem tmrCount_tickTmr (h : HasCounter s d) : tmrCount (tickTmr d s) d = tmrCount s d + 1 := by
  simp only [tickTmr]
  split
  · rw [tmrCount_frame (driveOutput_bank _ _ _), tmrCount_setCell_stat, tmrCount_setCell h]
  · exact tmrCount_setCell h _

theorem tickDevice_of_tmr (hk : kindOf s.cfg d = some .tmr) : tickDevice d s = tickTmr d s := by
  simp only [tickDevice, hk]

/-- A tick that answers and leaves its device Running ran the tick function: the other ways to end are the refusals and a
device error, which makes the device Inert (44_device_threads.md R200, R203). -/
theorem eq_tickDevice_of_completed (h : exec (.tick d) s = .next t) (hok : t.response = some (.ok .none))
    (hrun : runState t d = .running) : t = respond .none (tickDevice d s) := by
  have ht : tickStep d s = t := by
    cases h
    rfl
  unfold tickStep at ht
  split at ht
  · subst ht
    cases hok
  · split at ht
    · subst ht
      cases hok
    · split at ht
      · subst ht
        have hinert : runState (setRunState d .inert s) d = .inert := by rw [runState_setRunState, if_pos rfl]
        cases hinert.symm.trans hrun
      · exact ht.symm

theorem inRange_frame {addr : DWord} {len : Nat} {r : Range} (h : InRange s addr len r) (hp : t.phase = s.phase)
    (hr : t.ranges = s.ranges) : InRange t addr len r := by
  rwa [InRange, Mapped, hp, hr]

theorem plainSlave_frame {k : SlaveKind} (h : PlainSlave s d k) (hc : t.cfg = s.cfg) : PlainSlave t d k := by
  rwa [PlainSlave, hc]

/-- Settles O44: the read answers the counter in any state that has its cells, and a tick keeps the cells. -/
theorem counterReadIsWhole : Obligations.CounterReadIsWhole := by
  intro i s m addr u r hi hin hk hoff hbanks
  have ⟨hkind, _⟩ := hk
  have hcnt := hasCounter_of_banksComplete hbanks hkind
  refine ⟨answers_counter hi hin hk hoff hcnt, fun t ht hok hrun => ?_⟩
  have heq := eq_tickDevice_of_completed ht hok hrun
  rw [tickDevice_of_tmr hkind] at heq
  subst heq
  have hsteps := tickTmr_steps r.slave s hkind
  have hsame := deviceSteps_sameFabric hsteps
  have hcells := deviceSteps_hasCell hsteps r.slave
  have hread := answers_counter (s := respond .none (tickTmr r.slave s)) hi (inRange_frame hin hsame.phase hsame.ranges)
    (plainSlave_frame hk hsame.cfg) hoff ⟨(hcells 0x00).trans hcnt.low, (hcells 0x04).trans hcnt.high⟩
  have hcount : tmrCount (respond .none (tickTmr r.slave s)) r.slave = tmrCount s r.slave + 1 :=
    tmrCount_tickTmr hcnt
  rwa [hcount] at hread

end Sys2Proof.Proofs
end

section
/-! The request record as a word: the operation an encoded record decodes to, the 33 code points of the map and the
reserved codes (30_encoding.md R71, R72, R74, R78). -/

namespace Sys2Proof.Proofs

open Sys2Proof.Machine Sys2Proof.Safety Sys2Proof.Laws

variable {s : State} {q : Request} {rest : List Request} {e : DecodeError}

/-! ### Operands -/

/-- A value reads back from the field that holds it zero-extended (30_encoding.md R77). -/
theorem extractLsb'_setWidth_dword {w : Nat} (h : w ≤ 64) (v : BitVec w) : (v.setWidth 64).extractLsb' 0 w = v := by
  rw [← BitVec.setWidth_eq_extractLsb' h, BitVec.setWidth_setWidth_of_le v h, BitVec.setWidth_eq]

/-- Settles O2: the fields of a record built from fields, and the row of the decoder for each code. -/
theorem operandAssembly : Obligations.OperandAssembly := by
  intro a b c
  simp only [decodeRecord, BitVec.ofNat_eq_ofNat, cmdField_mkRecord, aField_mkRecord, bField_mkRecord, cField_mkRecord,
    BitVec.setWidth_eq_extractLsb' (show 8 ≤ 64 by decide), BitVec.setWidth_eq_extractLsb' (show 16 ≤ 64 by decide),
    BitVec.setWidth_eq_extractLsb' (show 32 ≤ 64 by decide), and_self]

/-- The decoder undoes the encoder: an operation's fields read back, and its code selects its own row. -/
theorem decodeRecord_encode {i : Instr} (h : i.wf = true) : decodeRecord (encode i) = .ok i := by
  simp only [encode, decodeRecord, cmdField_mkRecord, aField_mkRecord, bField_mkRecord, cField_mkRecord]
  cases i with
  | canread m addr len | canwrite m addr len => rcases isAccessLen_cases h with rfl | rfl | rfl | rfl <;> rfl
  | write8 | write16 | write32 | write16u | write32u | addRegister =>
    simp [Instr.cmd, Instr.fieldA, Instr.fieldB, Instr.fieldC, extractLsb'_setWidth_dword]
  | setLineSec | setLinePri => simp [Instr.cmd, Instr.fieldA, Instr.fieldB, Instr.fieldC]
  | _ => rfl

/-! ### Reserved codes -/

/-- The 33 code points of the map, the four lengths of each probe among them (30_encoding.md R74). -/
def codePoints : List Byte :=
  [0x00, 0x01, 0x02, 0x03, 0x09, 0x0A, 0x0B, 0x10, 0x11, 0x12, 0x13, 0x19, 0x1A, 0x1B, 0x40, 0x41, 0x42, 0x43, 0x50,
    0x51, 0x52, 0x53, 0x60, 0x61, 0x80, 0x81, 0x88, 0xC0, 0xC1, 0xC2, 0xC3, 0xC8, 0xC9]

/-- A code lies in the list of reserved codes (30_encoding.md R78). -/
def IsReserved (cmd : Byte) : Prop := ∃ p ∈ reservedCmds, p.1 ≤ cmd.toNat ∧ cmd.toNat ≤ p.2

/-- The decoder rejects a record exactly when its code is no code point, whatever the operands: each row of the decoder is
one code point, and its last row is reached by no code point. -/
theorem decodeRecord_eq_reserved_iff :
    decodeRecord q = .error (.reservedCmd (cmdField q)) ↔ cmdField q ∉ codePoints := by
  unfold decodeRecord
  split <;> simp_all [codePoints]

/-- The reserved codes and the code points are complements of each other. -/
theorem isReserved_iff (cmd : Byte) : IsReserved cmd ↔ cmd ∉ codePoints := by
  unfold IsReserved
  revert cmd
  decide

/-- The decoder rejects exactly the reserved codes, each by its name (30_encoding.md R78). -/
theorem isReserved_iff_decodeRecord :
    IsReserved (cmdField q) ↔ decodeRecord q = .error (.reservedCmd (cmdField q)) := by
  rw [isReserved_iff, decodeRecord_eq_reserved_iff]

theorem step_of_decodeRecord_error (h : s.pending = q :: rest) (hd : decodeRecord q = .error e) :
    step s = .next (refuse .encoding (s.setPending rest)) := by
  simp only [step, takeRequest_of_pending_cons h, hd, proceed]

/-- Settles O3: the refusal touches the response and the mark only. -/
theorem reservedCmdRefused : Obligations.ReservedCmdRefused := fun _ _ _ hp =>
  ⟨isReserved_iff_decodeRecord, fun h =>
    ⟨_, step_of_decodeRecord_error hp (isReserved_iff_decodeRecord.1 h), rfl, rfl⟩⟩

end Sys2Proof.Proofs
end

section
/-! The bytes of a record: a record's bytes spell it, and the bytes of its fields follow each other (30_encoding.md R71). -/

namespace Sys2Proof.Proofs

open Sys2Proof.Machine Sys2Proof.Safety Sys2Proof.Laws

variable {v w n : Nat}

/-! ### The bytes of a word -/

/-- The lowest `n` bytes of a word, the byte holding bits 7:0 first (30_encoding.md R71). -/
def lowBytes (x : BitVec w) (n : Nat) : List Byte := (List.range n).map fun k => x.extractLsb' (8 * k) 8

theorem recordBytes_eq_lowBytes (q : Request) : recordBytes q = lowBytes q 19 := rfl

theorem responseBytes_eq_lowBytes (r : Response) : responseBytes r = lowBytes (responseRecord r) 9 := rfl

theorem bytesLe_eq_lowBytes (x : DWord) (n : Nat) : bytesLe x n = lowBytes x n := rfl

theorem lowBytes_byte (x : Byte) : lowBytes x 1 = [x] := by
  simp [lowBytes, BitVec.extractLsb'_eq_self]

@[simp] theorem lowBytes_length (x : BitVec w) (n : Nat) : (lowBytes x n).length = n := by simp [lowBytes]

/-- Zero-extending a word leaves the bytes it has. -/
theorem lowBytes_setWidth (h : 8 * n ≤ v) (x : BitVec w) : lowBytes (x.setWidth v) n = lowBytes x n := by
  refine List.map_congr_left fun k hk => BitVec.eq_of_getLsbD_eq fun j hj => ?_
  have hkn := List.mem_range.1 hk
  simp only [BitVec.getLsbD_extractLsb', BitVec.getLsbD_setWidth, show 8 * k + j < v by omega, decide_true,
    Bool.true_and]

/-- The bytes of two words side by side are those of the low one, then those of the high one. -/
theorem lowBytes_append {m : Nat} (hw : w = 8 * m) (x : BitVec v) (y : BitVec w) (n : Nat) :
    lowBytes (x ++ y) (m + n) = lowBytes y m ++ lowBytes x n := by
  subst hw
  simp only [lowBytes, List.range_add, List.map_append, List.map_map]
  congr 1
  · refine List.map_congr_left fun k hk => BitVec.eq_of_getLsbD_eq fun j hj => ?_
    have hkm := List.mem_range.1 hk
    simp only [BitVec.getLsbD_extractLsb', BitVec.getLsbD_append, show 8 * k + j < 8 * m by omega, if_true]
  · refine List.map_congr_left fun k _ => BitVec.eq_of_getLsbD_eq fun j hj => ?_
    simp only [Function.comp, BitVec.getLsbD_extractLsb', BitVec.getLsbD_append,
      show ¬ 8 * (m + k) + j < 8 * m by omega, if_false, show 8 * (m + k) + j - 8 * m = 8 * k + j by omega]

/-! ### Reading the bytes back -/

/-- The decoder of records composes bytes as the memory does (30_encoding.md R71; 20_memory.md R44). -/
theorem recordNat_eq_leNat (bs : List Byte) : recordNat bs = leNat bs := by
  induction bs with
  | nil => rfl
  | cons b bs ih => rw [recordNat, leNat, ih]

/-- The lowest `n` bytes of a word spell its remainder. -/
theorem leNat_lowBytes (x : BitVec w) (n : Nat) : leNat (lowBytes x n) = x.toNat % 256 ^ n := by
  induction n with
  | zero => exact (Nat.mod_one _).symm
  | succ n ih =>
    have hsplit : lowBytes x (n + 1) = lowBytes x n ++ [x.extractLsb' (8 * n) 8] := by
      simp [lowBytes, List.range_succ]
    have hbyte : (x.extractLsb' (8 * n) 8).toNat = x.toNat / 256 ^ n % 256 := by
      rw [BitVec.extractLsb'_toNat, Nat.shiftRight_eq_div_pow, Nat.pow_mul]
    rw [hsplit, leNat_append, ih, lowBytes_length, Nat.mod_pow_succ, leNat, leNat, hbyte, Nat.mul_zero, Nat.add_zero]

theorem ofNat_recordNat_recordBytes (q : Request) : BitVec.ofNat 152 (recordNat (recordBytes q)) = q := by
  have hlt : q.toNat < 256 ^ 19 := q.isLt
  rw [recordNat_eq_leNat, recordBytes_eq_lowBytes, leNat_lowBytes, Nat.mod_eq_of_lt hlt, BitVec.ofNat_toNat,
    BitVec.setWidth_eq]

@[simp] theorem recordBytes_length (q : Request) : (recordBytes q).length = 19 := lowBytes_length q 19

/-- The 19 bytes of a record decode as the record; the bytes that follow are handed on. -/
theorem decodeBytes_recordBytes (q : Request) (rest : List Byte) :
    decodeBytes (recordBytes q ++ rest) = (decodeRecord q).map fun i => (i, rest) := by
  have hlen := recordBytes_length q
  have hlong : ¬ (recordBytes q ++ rest).length < 19 := by simp
  rw [decodeBytes, if_neg hlong, List.take_left' hlen, List.drop_left' hlen, ofNat_recordNat_recordBytes]
  cases decodeRecord q <;> rfl

/-- Settles O1: the decoder undoes the encoder on records, and so on the bytes that spell them. -/
theorem decodeEncodeRoundTrip : Obligations.DecodeEncodeRoundTrip := by
  intro i rest h
  have hrecord := decodeRecord_encode h
  refine ⟨hrecord, ?_⟩
  rw [decodeBytes_recordBytes, hrecord]
  rfl

/-! ### The layout of the two records -/

theorem recordBytes_mkRecord (cmd : Byte) (a : Ident) (b c : DWord) :
    recordBytes (mkRecord cmd a b c) = cmd :: (bytesLe (a.setWidth 64) 2 ++ bytesLe b 8 ++ bytesLe c 8) := by
  rw [recordBytes_eq_lowBytes, mkRecord, lowBytes_append (m := 1) rfl _ _ 18, lowBytes_append (m := 2) rfl _ _ 16,
    lowBytes_append (m := 8) rfl _ _ 8, lowBytes_byte]
  simp only [bytesLe_eq_lowBytes, lowBytes_setWidth (show 8 * 2 ≤ 64 by decide), List.cons_append, List.nil_append,
    List.append_assoc]

theorem responseBytes_eq_cons (r : Response) : responseBytes r = statusCode r :: bytesLe (responseData r) 8 := by
  rw [responseBytes_eq_lowBytes, responseRecord, lowBytes_append (m := 1) rfl _ _ 8, lowBytes_byte, bytesLe_eq_lowBytes]
  rfl

/-- Settles O4: the fields, the bytes and the decoding of a request record, then the layout of a response record. -/
theorem recordLayout : Obligations.RecordLayout := fun cmd a b c r q rest =>
  ⟨cmdField_mkRecord cmd a b c, aField_mkRecord cmd a b c, bField_mkRecord cmd a b c, cField_mkRecord cmd a b c,
    recordBytes_mkRecord cmd a b c, decodeBytes_recordBytes q rest, BitVec.extractLsb'_append_eq_right,
    BitVec.extractLsb'_append_eq_left, responseBytes_eq_cons r⟩

/-! ### Words of the map -/

theorem decodeTableWord_eq_toOption (nbits x : Nat) :
    decodeTableWord nbits x = (decodeRecord (recordOfTableWord nbits x)).toOption := by
  have h := decodeBytes_recordBytes (recordOfTableWord nbits x) []
  rw [List.append_nil] at h
  unfold decodeTableWord
  generalize decodeBytes (recordBytes (recordOfTableWord nbits x)) = decoded at h ⊢
  subst h
  cases decodeRecord (recordOfTableWord nbits x) <;> rfl

/-- A word that is an operation's record decodes to it. -/
theorem decodeTableWord_of_eq_encode {nbits x : Nat} {i : Instr} (hx : recordOfTableWord nbits x = encode i)
    (hi : i.wf = true) : decodeTableWord nbits x = some i := by
  rw [decodeTableWord_eq_toOption, hx, decodeRecord_encode hi]
  rfl

/-- A word with a reserved code decodes to nothing. -/
theorem decodeTableWord_of_isReserved {nbits x : Nat} (h : IsReserved (cmdField (recordOfTableWord nbits x))) :
    decodeTableWord nbits x = none := by
  rw [decodeTableWord_eq_toOption, isReserved_iff_decodeRecord.1 h]
  rfl

/-- Settles O6: each word but the last is the record of its operation. -/
theorem wordsDecode : Obligations.WordsDecode :=
  ⟨decodeTableWord_of_eq_encode (by decide) rfl, decodeTableWord_of_eq_encode (by decide) rfl,
    decodeTableWord_of_eq_encode (by decide) rfl, decodeTableWord_of_eq_encode (by decide) rfl,
    decodeTableWord_of_eq_encode (by decide) rfl, decodeTableWord_of_eq_encode (by decide) rfl,
    decodeTableWord_of_eq_encode (by decide) rfl, decodeTableWord_of_eq_encode (by decide) rfl,
    decodeTableWord_of_isReserved ⟨(0x04, 0x08), by decide, by decide⟩⟩

end Sys2Proof.Proofs
end

section
/-! Every operation ends in one response, and what a response carries (30_encoding.md R75 to R77;
70_reset_and_hazards.md R273). -/

namespace Sys2Proof.Proofs

open Sys2Proof.Machine Sys2Proof.Safety Sys2Proof.Laws

variable {s t : State} {i : Instr}

/-- Data comes with the status `OK` only (30_encoding.md R75). -/
theorem responseData_of_statusCode_ne_zero {r : Response} (h : statusCode r ≠ 0x00) : responseData r = 0 := by
  cases r with
  | ok d => exact absurd rfl h
  | busFault | configError | refused => rfl

/-- Settles O5: the rows of the two tables, and the rule for every status but `OK`. -/
theorem statusCodes : Obligations.StatusCodes :=
  ⟨fun _ => rfl, fun _ _ _ _ => rfl, fun _ _ _ _ => rfl, fun _ _ _ => rfl, fun _ _ _ _ => rfl, fun _ _ => rfl,
    fun _ => rfl, fun _ => rfl, fun _ _ => rfl, fun _ _ => rfl, fun _ _ => rfl, rfl, rfl, rfl, rfl, fun _ => rfl,
    fun _ => rfl, fun _ => rfl, fun _ => rfl, rfl, rfl, rfl, fun _ => responseData_of_statusCode_ne_zero⟩

@[simp] theorem bindLine_pending (ctl : Ctrl) (id : Nat) (d : Ident) (s : State) :
    (bindLine ctl id d s).pending = s.pending := by
  cases ctl <;> rfl

/-- What every operation leaves: one response, the waiting requests and the board. -/
structure Responded (s t : State) : Prop where
  response : ∃ r, t.response = some r
  pending : t.pending = s.pending
  cfg : t.cfg = s.cfg

theorem responded_of_sameFabric (h : SameFabric s t) (d : Data) : Responded s (respond d t) :=
  ⟨⟨_, rfl⟩, h.pending, h.cfg⟩

theorem responded_of_opEffect (h : OpEffect i s t) : Responded s t := by
  cases h with
  | access _ _ _ d _ _ _ steps => exact responded_of_sameFabric (deviceSteps_sameFabric steps) d
  | tick d _ _ ha => exact responded_of_sameFabric (deviceSteps_sameFabric (tickDevice_steps d s ha)) .none
  | setLine ctl d id b => exact responded_of_sameFabric (setRaw_sameFabric ctl id.toNat b s) .none
  | connect ctl d id => exact ⟨⟨_, rfl⟩, bindLine_pending ctl id.toNat d s, bindLine_cfg ctl id.toNat d s⟩
  | _ => exact ⟨⟨_, rfl⟩, rfl, rfl⟩

/-- Settles O8: each effect of an operation ends in a response. -/
theorem everyOperationResponds : Obligations.EveryOperationResponds := by
  intro i s
  obtain ⟨t, ht, heffect⟩ := exec_effect i s
  obtain ⟨⟨r, hr⟩, hpending, hcfg⟩ := responded_of_opEffect heffect
  exact ⟨t, r, ht, hr, hpending, hcfg, responseData_of_statusCode_ne_zero⟩

/-! ### Probes of a length no access has -/

theorem probeAnswer_of_not_isAccessLen {len : Nat} (h : isAccessLen len = false) (s : State) (m : Ident)
    (addr : DWord) (dir : Dir) : probeAnswer s m addr len dir = false := by
  unfold probeAnswer
  split
  · rfl
  · rw [h, Bool.false_and, Bool.false_and]

theorem busProbe_of_not_isAccessLen {len : Nat} (h : isAccessLen len = false) (hp : s.phase ≠ .failed) (m : Ident)
    (addr : DWord) (dir : Dir) : busProbe m addr len dir s = respond (.flag false) s := by
  rw [busProbe_of_not_failed hp, probeAnswer_of_not_isAccessLen h]

/-- Settles O25: both probes are the probe at the Bus. -/
theorem oddProbeAnswersFalse : Obligations.OddProbeAnswersFalse := fun _ m addr _ h hp =>
  ⟨congrArg proceed (busProbe_of_not_isAccessLen h hp m addr .read),
    congrArg proceed (busProbe_of_not_isAccessLen h hp m addr .write)⟩

end Sys2Proof.Proofs
end

section
/-! The capability of a slave decides an access in its range: what the capability is at an aligned and at a misaligned
offset and for an `Other` slave, and the access of a slave that serves it (40_slave_core.md R91 to R97, R103; 42_bus.md
R140, R141). -/

namespace Sys2Proof.Proofs

open Sys2Proof.Machine Sys2Proof.Safety Sys2Proof.Laws

variable {s : State} {i : Instr} {a : Access} {r : Range} {sl m : Ident} {off len : Nat} {dir : Dir}

/-! ### The value of an access -/

theorem isAccessLen_of_accessOf (h : accessOf i = some a) : isAccessLen a.len = true := by
  cases i with
  | read8 | read16 | read32 | read64 | read16u | read32u | read64u => cases h; rfl
  | write8 | write16 | write32 | write64 | write16u | write32u | write64u => cases h; rfl
  | _ => cases h

theorem accessLen_bounds (h : isAccessLen len = true) : 0 < len ∧ len ≤ 8 := by
  rcases isAccessLen_cases h with rfl | rfl | rfl | rfl <;> decide

theorem laneMask_eq_self {v : DWord} (h : v.toNat < 2 ^ (8 * len)) : laneMask v len = v := by
  rw [laneMask, Nat.mod_eq_of_lt h, BitVec.ofNat_toNat, BitVec.setWidth_eq]

theorem setWidth_laneMask (v : DWord) {n : Nat} (hn : n = 8 * len) (h64 : n ≤ 64) :
    (laneMask v len).setWidth n = v.setWidth n := by
  subst hn
  apply BitVec.eq_of_toNat_eq
  simp only [laneMask, BitVec.toNat_setWidth, BitVec.toNat_ofNat]
  rw [Nat.mod_mod_of_dvd _ (Nat.pow_dvd_pow 2 h64), Nat.mod_mod]

/-- A value typed at its width shows the low `8*len` bits only (30_encoding.md R77). -/
theorem typedValue_laneMask (h : isAccessLen len = true) (v : DWord) :
    typedValue len (laneMask v len) = typedValue len v := by
  rcases isAccessLen_cases h with rfl | rfl | rfl | rfl
  · exact congrArg Data.byte (setWidth_laneMask v rfl (by decide))
  · exact congrArg Data.half (setWidth_laneMask v rfl (by decide))
  · exact congrArg Data.word (setWidth_laneMask v rfl (by decide))
  · exact congrArg Data.dword (laneMask_eq_self v.isLt)

theorem laneMask_setWidth {n : Nat} (v : BitVec n) (hn : n = 8 * len) (h64 : n ≤ 64) :
    laneMask (v.setWidth 64) len = v.setWidth 64 := by
  subst hn
  apply laneMask_eq_self
  rw [BitVec.toNat_setWidth_of_le h64]
  exact v.isLt

/-- A `WRITE*` stores a value that fits its length. -/
theorem laneMask_writeValue (h : accessOf i = some a) (hd : a.dir = .write) :
    laneMask (writeValue i) a.len = writeValue i := by
  cases i with
  | write8 m addr v | write16 m addr v | write32 m addr v | write16u m addr v | write32u m addr v =>
    cases h
    exact laneMask_setWidth v rfl (by decide)
  | write64 m addr v | write64u m addr v => cases h; exact laneMask_eq_self v.isLt
  | read8 | read16 | read32 | read64 | read16u | read32u | read64u => cases h; cases hd
  | _ => cases h

/-! ### The capability -/

theorem canAccess_of_aligned (h : off % len = 0) : canAccess s sl m off len dir = supports s sl m off len dir :=
  if_pos (decide_eq_true h)

theorem canAccess_byte : canAccess s sl m off 1 dir = supports s sl m off 1 dir :=
  canAccess_of_aligned (Nat.mod_one off)

/-- At a misaligned offset the capability is that of every single byte (40_slave_core.md R92). -/
theorem canAccess_of_misaligned (h : off % len ≠ 0) :
    canAccess s sl m off len dir = true ↔ ∀ k < len, canAccess s sl m (off + k) 1 dir = true := by
  simp [canAccess, isAligned, h]

theorem seenMaster_eq_ite (c : Cfg) (sl m : Ident) :
    seenMaster c sl m = if sl ∈ c.masterFilter then m else 0 := by
  simp [seenMaster]

theorem supports_other (hk : kindOf s.cfg sl = some .other) :
    supports s sl m off len dir = true ↔ Config.supportsOther sl (seenMaster s.cfg sl m) off len dir = true ∧
      (sl ∈ s.cfg.masterFilter → Config.supportsMaster sl m off len = true) := by
  simp [supports_eq_true, hk, kindSupports]

/-! ### The access -/

/-- The access stays in range `r`, is aligned where it must be, and the slave serves it: every test of 42_bus.md R140 is
passed. -/
structure Served (s : State) (a : Access) (r : Range) : Prop where
  in_range : InRange s a.addr a.len r
  aligned : a.unaligned = true ∨ localOffset r a.addr % a.len = 0
  can : canAccess s r.slave a.master (localOffset r a.addr) a.len a.dir = true

theorem Served.route (h : Served s a r) : routeAccess s a.master a.addr a.len a.unaligned a.dir = .hit r :=
  routeAccess_hit.2 ⟨h.in_range, fun hu => h.aligned.resolve_left (by simp [hu]), h.can⟩

/-- Both variants of a served read are the slave's own `read_u` (40_slave_core.md R93). -/
theorem Served.exec_read (h : Served s a r) (hi : accessOf i = some a) (hd : a.dir = .read) :
    exec i s = .next (respond
      (typedValue a.len (slaveReadU r.slave a.master (localOffset r a.addr) a.len s).1)
      (slaveReadU r.slave a.master (localOffset r a.addr) a.len s).2) := by
  have hroute := h.route
  rw [hd] at hroute
  rw [exec_of_accessOf_read hi hd, busRead, hroute]
  cases hu : a.unaligned with
  | true => rfl
  | false => rw [slaveReadU_of_aligned (h.aligned.resolve_left (by simp [hu]))]; rfl

/-- Both variants of a served write are the slave's own `write_u` (40_slave_core.md R93). -/
theorem Served.exec_write (h : Served s a r) (hi : accessOf i = some a) (hd : a.dir = .write) :
    exec i s = .next (respond .none
      (slaveWriteU r.slave a.master (localOffset r a.addr) a.len (writeValue i) s)) := by
  have hroute := h.route
  rw [hd] at hroute
  rw [exec_of_accessOf_write hi hd, busWrite, hroute]
  cases hu : a.unaligned with
  | true => rfl
  | false => rw [slaveWriteU_of_aligned (h.aligned.resolve_left (by simp [hu]))]; rfl

/-- A slave that does not serve the access faults it (40_slave_core.md R93). -/
theorem faultsWith_of_canAccess_false (hi : accessOf i = some a) (hin : InRange s a.addr a.len r)
    (hcan : canAccess s r.slave a.master (localOffset r a.addr) a.len a.dir = false) :
    FaultsWith i s a .unsupportedAccess := by
  obtain ⟨hp, hm, -⟩ := hin
  refine faultsWith_of_routeAccess hi ?_
  rw [routeAccess_of_mapped _ _ _ _ hp hm, if_neg]
  rintro ⟨-, -, htrue⟩
  cases hcan.symm.trans htrue

theorem slaveReadU_of_misaligned {off : Nat} (h : off % len ≠ 0) (sl m : Ident) (s : State) :
    slaveReadU sl m off len s = (fromLe (readBytes sl m off len s).1, (readBytes sl m off len s).2) := by
  simp [slaveReadU, isAligned, h]

theorem slaveWriteU_of_misaligned {off : Nat} (h : off % len ≠ 0) (sl m : Ident) (v : DWord) (s : State) :
    slaveWriteU sl m off len v s = writeBytes sl m off (bytesLe v len) s := by
  simp [slaveWriteU, isAligned, h]

theorem slaveRead_other (hk : kindOf s.cfg sl = some .other) (m : Ident) (off len : Nat) :
    slaveRead sl m off len s =
      (laneMask (Config.readOther sl (seenMaster s.cfg sl m) off len (stateView s sl)).1 len,
        applyEffect sl (Config.readOther sl (seenMaster s.cfg sl m) off len (stateView s sl)).2 s) := by
  simp only [slaveRead, hk]

theorem slaveWrite_other (hk : kindOf s.cfg sl = some .other) (m : Ident) (off len : Nat) (v : DWord) :
    slaveWrite sl m off len v s =
      applyEffect sl (Config.writeOther sl (seenMaster s.cfg sl m) off len (laneMask v len) (stateView s sl)) s := by
  simp only [slaveWrite, hk]

/-- Settles O12: the capability by alignment and by kind, then the access of a slave that serves it. -/
theorem capabilityDecidesAccess : Obligations.CapabilityDecidesAccess := by
  intro i s a r hi hin off seen
  have hlen := isAccessLen_of_accessOf hi
  have hseen : seen = seenMaster s.cfg r.slave a.master := (seenMaster_eq_ite _ _ _).symm
  refine ⟨canAccess_of_misaligned, fun hk halign => ?_, fun halign => ?_⟩
  · rw [hseen]
    refine ⟨by rw [canAccess_of_aligned halign, supports_other hk], fun hcan => ?_⟩
    have hserved : Served s a r := ⟨hin, .inr halign, hcan⟩
    refine ⟨fun hd => ?_, fun hd => ?_⟩
    · rw [hserved.exec_read hi hd, slaveReadU_of_aligned halign, slaveRead_other hk, typedValue_laneMask hlen]
      rfl
    · rw [hserved.exec_write hi hd, slaveWriteU_of_aligned halign, slaveWrite_other hk, laneMask_writeValue hi hd]
      rfl
  · refine ⟨faultsWith_of_canAccess_false hi hin, fun hcan => ?_⟩
    have hserved : Served s a r := ⟨hin, halign, hcan⟩
    exact ⟨hserved.exec_read hi, hserved.exec_write hi⟩

end Sys2Proof.Proofs
end

section
/-! Accesses to a RAM: the capability is the end of the array, and both variants read and write the bytes at the offsets
(40_slave_core.md R100 to R102). -/

namespace Sys2Proof.Proofs

open Sys2Proof.Machine Sys2Proof.Safety Sys2Proof.Laws

variable {s : State} {a : Access} {r : Range} {sl : Ident} {size len : Nat}

/-! ### The capability -/

theorem supports_ram (h : PlainSlave s sl (.ram size)) (m : Ident) (off len : Nat) (dir : Dir) :
    supports s sl m off len dir = true ↔ off + len ≤ size := by
  obtain ⟨hk, hplain⟩ := h
  simp [supports_eq_true, hk, hplain, kindSupports, endsInside]

/-- At every alignment a RAM serves exactly the accesses that end inside its array (40_slave_core.md R102). -/
theorem canAccess_ram (h : PlainSlave s sl (.ram size)) (m : Ident) (off : Nat) (hlen : 0 < len) (dir : Dir) :
    canAccess s sl m off len dir = true ↔ off + len ≤ size := by
  by_cases halign : off % len = 0
  · rw [canAccess_of_aligned halign, supports_ram h]
  · rw [canAccess_of_misaligned halign]
    simp only [canAccess_byte, supports_ram h]
    refine ⟨fun hbytes => ?_, fun hend k hk => by omega⟩
    have hlast := hbytes (len - 1) (by omega)
    omega

theorem faultsWith_of_past_ram {i : Instr} (hi : accessOf i = some a) (hin : InRange s a.addr a.len r)
    (hk : PlainSlave s r.slave (.ram size)) (hpast : size < localOffset r a.addr + a.len) :
    FaultsWith i s a .unsupportedAccess := by
  obtain ⟨hpos, -⟩ := accessLen_bounds (isAccessLen_of_accessOf hi)
  refine faultsWith_of_canAccess_false hi hin (Bool.eq_false_iff.2 fun hcan => ?_)
  have hend := (canAccess_ram hk _ _ hpos _).1 hcan
  omega

/-! ### Reads -/

@[simp] theorem ramBytes_length (s : State) (sl : Ident) (off n : Nat) : (ramBytes s sl off n).length = n := by
  simp [ramBytes]

theorem ramBytes_succ (s : State) (sl : Ident) (off n : Nat) :
    ramBytes s sl off (n + 1) = ramByte s sl off :: ramBytes s sl (off + 1) n := by
  simp [ramBytes, List.range_succ_eq_map, Nat.add_assoc, Nat.add_comm 1]

theorem slaveRead_ram (hk : kindOf s.cfg sl = some (.ram size)) (m : Ident) (off len : Nat) :
    slaveRead sl m off len s = (fromLe (ramBytes s sl off len), s) := by
  simp only [slaveRead, hk]

theorem readBytes_ram (hk : kindOf s.cfg sl = some (.ram size)) (m : Ident) (off n : Nat) :
    readBytes sl m off n s = (ramBytes s sl off n, s) := by
  induction n generalizing off with
  | zero => rfl
  | succ n ih =>
    have hbyte : byteOf (fromLe (ramBytes s sl off 1)) 0 = ramByte s sl off :=
      byteOf_fromLe (ramBytes s sl off 1) 0 (by simp) (by simp)
    rw [ramBytes_succ]
    simp only [readBytes, slaveRead_ram hk, ih, hbyte]

theorem slaveReadU_ram (hk : kindOf s.cfg sl = some (.ram size)) (m : Ident) (off len : Nat) :
    slaveReadU sl m off len s = (fromLe (ramBytes s sl off len), s) := by
  by_cases halign : off % len = 0
  · rw [slaveReadU_of_aligned halign, slaveRead_ram hk]
  · rw [slaveReadU_of_misaligned halign, readBytes_ram hk]

theorem byteOf_fromLe_ramBytes (s : State) (sl : Ident) (off : Nat) (hlen : len ≤ 8) {k : Nat} (hk : k < len) :
    byteOf (fromLe (ramBytes s sl off len)) k = ramByte s sl (off + k) := by
  rw [byteOf_fromLe _ _ (by simpa using hk) (by simpa using hlen)]
  simp [ramBytes]

/-- Settles O19: the capability is the end of the array, and the value is made of the array's bytes. -/
theorem ramReads : Obligations.RamReads := by
  intro i s a r size hi hd hin hk halign
  obtain ⟨hpos, hlen⟩ := accessLen_bounds (isAccessLen_of_accessOf hi)
  refine ⟨fun hend => ?_, faultsWith_of_past_ram hi hin hk⟩
  have hserved : Served s a r := ⟨hin, halign, (canAccess_ram hk _ _ hpos _).2 hend⟩
  obtain ⟨hkind, -⟩ := hk
  refine ⟨fromLe (ramBytes s r.slave (localOffset r a.addr) a.len), ?_,
    fun k hk => byteOf_fromLe_ramBytes _ _ _ hlen hk⟩
  rw [Answers, hserved.exec_read hi hd, slaveReadU_ram hkind]
  rfl

/-! ### Writes -/

theorem slaveWrite_ram (hk : kindOf s.cfg sl = some (.ram size)) (m : Ident) (off len : Nat) (v : DWord) :
    slaveWrite sl m off len v s = ramWrite sl off (bytesLe v len) s := by
  simp only [slaveWrite, hk]

theorem ramWrite_cons (sl : Ident) (off : Nat) (b : Byte) (bs : List Byte) (s : State) :
    ramWrite sl off (b :: bs) s = ramWrite sl (off + 1) bs (ramWrite sl off [b] s) := by
  simp only [ramWrite, ← ramKey_add]
  rfl

theorem bytesLe_byte (b : Byte) : bytesLe (b.setWidth 64) 1 = [b] := by
  rw [bytesLe_eq_lowBytes, lowBytes_setWidth (by decide), lowBytes_byte]

theorem writeBytes_ram (hk : kindOf s.cfg sl = some (.ram size)) (m : Ident) (off : Nat) (bs : List Byte) :
    writeBytes sl m off bs s = ramWrite sl off bs s := by
  induction bs generalizing off s with
  | nil => rfl
  | cons b bs ih =>
    rw [writeBytes, slaveWrite_ram hk, bytesLe_byte]
    exact (ih (s := ramWrite sl off [b] s) hk (off + 1)).trans (ramWrite_cons sl off b bs s).symm

theorem slaveWriteU_ram (hk : kindOf s.cfg sl = some (.ram size)) (m : Ident) (off len : Nat) (v : DWord) :
    slaveWriteU sl m off len v s = ramWrite sl off (bytesLe v len) s := by
  by_cases halign : off % len = 0
  · rw [slaveWriteU_of_aligned halign, slaveWrite_ram hk]
  · rw [slaveWriteU_of_misaligned halign, writeBytes_ram hk]

/-- Every byte of every RAM after a write of the bytes of a value (40_slave_core.md R101). -/
theorem ramByte_ramWrite_bytesLe (sl sl' : Ident) (off o len : Nat) (v : DWord) (s : State) (ho : o < 2 ^ 64)
    (hend : off + len ≤ 2 ^ 64) :
    ramByte (ramWrite sl off (bytesLe v len) s) sl' o =
      if sl' = sl ∧ off ≤ o ∧ o < off + len then byteOf v (o - off) else ramByte s sl' o := by
  split
  · rename_i hin
    obtain ⟨rfl, hlo, hhi⟩ := hin
    have hread := ramByte_ramWrite_inside sl' off (bytesLe v len) s (i := o - off) (by rw [bytesLe_length]; omega)
    rwa [Nat.add_sub_cancel' hlo, bytesLe_getElem] at hread
  · rename_i hout
    refine ramByte_ramWrite_outside sl sl' off o _ s ho (by rwa [bytesLe_length]) ?_
    rw [bytesLe_length]
    by_cases hsl : sl' = sl
    · right
      have hbounds : ¬ (off ≤ o ∧ o < off + len) := fun h => hout ⟨hsl, h⟩
      omega
    · exact .inl hsl

/-- Settles O20: the capability is the end of the array, and the value's bytes go to the array. -/
theorem ramWrites : Obligations.RamWrites := by
  intro i s a r size hi hd hin hk halign
  obtain ⟨hpos, -⟩ := accessLen_bounds (isAccessLen_of_accessOf hi)
  refine ⟨fun hend => ?_, faultsWith_of_past_ram hi hin hk⟩
  have hserved : Served s a r := ⟨hin, halign, (canAccess_ram hk _ _ hpos _).2 hend⟩
  obtain ⟨hkind, -⟩ := hk
  refine ⟨respond .none (ramWrite r.slave (localOffset r a.addr) (bytesLe (writeValue i) a.len) s), ?_, rfl, rfl,
    fun sl o ho => ramByte_ramWrite_bytesLe _ _ _ _ _ _ s ho (inRange_lt hin)⟩
  rw [hserved.exec_write hi hd, slaveWriteU_ram hkind]

end Sys2Proof.Proofs
end

section
/-! A misaligned unaligned variant is its byte accesses in ascending order: each byte is an access of its own that the
slave serves, the state of the fabric its tests read stays from byte to byte, and no slave sees the responses between
(40_slave_core.md R96, R97; 20_memory.md R48). -/

namespace Sys2Proof.Proofs

open Sys2Proof.Machine Sys2Proof.Safety Sys2Proof.Laws

variable {s t : State} {r : Range} {sl m : Ident} {off : Nat} {dir : Dir} {x : Option Response}

/-! ### Operations performed one after another -/

/-- The operations lead from `s` to `t` and answer `resps`, in order. -/
def Runs (ops : List Instr) (s t : State) (resps : List (Option Response)) : Prop :=
  runOps ops s = some t ∧ responsesOf ops s = resps

theorem runs_nil (s : State) : Runs [] s s [] := ⟨rfl, rfl⟩

theorem runs_cons {i : Instr} {ops : List Instr} {u : State} {resps : List (Option Response)} (hi : exec i s = .next t)
    (h : Runs ops t u resps) : Runs (i :: ops) s u (t.response :: resps) := by
  obtain ⟨hrun, hresps⟩ := h
  exact ⟨by simp only [runOps, hi, hrun], by simp only [responsesOf, hi, hresps]⟩

/-! ### A slave that serves a byte -/

/-- No register bank serves a byte (41_register_bank.md R119). -/
theorem kindOf_of_supports_byte (h : supports s sl m off 1 dir = true) :
    (∃ size, kindOf s.cfg sl = some (.ram size)) ∨ kindOf s.cfg sl = some .other := by
  obtain ⟨k, hk, hsup, -⟩ := supports_eq_true.1 h
  cases k with
  | ram size => exact .inl ⟨size, hk⟩
  | other => exact .inr hk
  | sec | pri | tmr | bank => cases hsup

/-- The capability for a byte depends on the board only. -/
theorem supports_byte_frame (h : t.cfg = s.cfg) : supports t sl m off 1 dir = supports s sl m off 1 dir := by
  simp [supports, kindSupports, bankSupports, h]

/-! ### The response reaches no slave that serves bytes -/

theorem setCell_setResponse (d : Ident) (off : Nat) (v : Word) (s : State) (x : Option Response) :
    setCell d off v (s.setResponse x) = (setCell d off v s).setResponse x := by
  simp only [setCell, setResponse_bank]
  cases mapGet s.bank (cellKey d off) <;> rfl

theorem deviceSetLine_setResponse (d : Ident) (ctl : Ctrl) (id : Nat) (b : Bool) (s : State) (x : Option Response) :
    deviceSetLine d ctl id b (s.setResponse x) = (deviceSetLine d ctl id b s).setResponse x := by
  have hdrives : drives (s.setResponse x) d ctl id = drives s d ctl id := by cases ctl <;> rfl
  rw [deviceSetLine, deviceSetLine, hdrives]
  split
  · cases ctl <;> rfl
  · rfl

theorem writeCells_setResponse (d : Ident) (ws : List (Word × Word)) (s : State) (x : Option Response) :
    writeCells d ws (s.setResponse x) = (writeCells d ws s).setResponse x := by
  induction ws generalizing s with
  | nil => rfl
  | cons w ws ih => rw [writeCells, setCell_setResponse, ih, writeCells]

theorem callLines_setResponse (d : Ident) (ls : List (Ctrl × Nat × Bool)) (s : State) (x : Option Response) :
    callLines d ls (s.setResponse x) = (callLines d ls s).setResponse x := by
  induction ls generalizing s with
  | nil => rfl
  | cons l ls ih => rw [callLines, deviceSetLine_setResponse, ih, callLines]

theorem applyEffect_setResponse (d : Ident) (e : DevEffect) (s : State) (x : Option Response) :
    applyEffect d e (s.setResponse x) = (applyEffect d e s).setResponse x := by
  simp only [applyEffect, writeCells_setResponse]
  exact callLines_setResponse d e.lines ((writeCells d e.cellWrites s).setDevState _) x

theorem slaveRead_byte_setResponse (h : supports s sl m off 1 dir = true) :
    slaveRead sl m off 1 (s.setResponse x) =
      ((slaveRead sl m off 1 s).1, (slaveRead sl m off 1 s).2.setResponse x) := by
  rcases kindOf_of_supports_byte h with ⟨size, hk⟩ | hk
  · rw [slaveRead_ram hk, slaveRead_ram (s := s.setResponse x) hk]
    rfl
  · rw [slaveRead_other hk, slaveRead_other (s := s.setResponse x) hk, applyEffect_setResponse]
    rfl

theorem slaveWrite_byte_setResponse (h : supports s sl m off 1 dir = true) (v : DWord) :
    slaveWrite sl m off 1 v (s.setResponse x) = (slaveWrite sl m off 1 v s).setResponse x := by
  rcases kindOf_of_supports_byte h with ⟨size, hk⟩ | hk
  · rw [slaveWrite_ram hk, slaveWrite_ram (s := s.setResponse x) hk]
    rfl
  · rw [slaveWrite_other hk, slaveWrite_other (s := s.setResponse x) hk, applyEffect_setResponse]
    rfl

/-! ### The single bytes -/

/-- The byte at `addr` is at offset `off` of range `r`, and its slave serves it. -/
structure ByteServed (s : State) (m : Ident) (r : Range) (dir : Dir) (addr : DWord) (off : Nat) : Prop where
  in_range : InRange s addr 1 r
  offset : localOffset r addr = off
  can : supports s r.slave m off 1 dir = true

theorem ByteServed.served {addr : DWord} (h : ByteServed s m r dir addr off) :
    Served s ⟨m, addr, 1, false, dir⟩ r where
  in_range := h.in_range
  aligned := .inr (Nat.mod_one _)
  can := by
    rw [canAccess_byte, h.offset]
    exact h.can

theorem ByteServed.frame {addr : DWord} (h : ByteServed s m r dir addr off) (hst : SameFabric s t) :
    ByteServed t m r dir addr off where
  in_range := inRange_frame h.in_range hst.phase hst.ranges
  offset := h.offset
  can := (supports_byte_frame hst.cfg).trans h.can

/-- No test of an access reads the response. -/
theorem Served.setResponse {a : Access} (h : Served s a r) (x : Option Response) : Served (s.setResponse x) a r :=
  ⟨h.in_range, h.aligned, h.can⟩

/-- `READ8` of a served byte (42_bus.md R142). -/
theorem ByteServed.exec_read8 {addr : DWord} (h : ByteServed s m r .read addr off) :
    exec (.read8 m addr) (s.setResponse x) =
      .next ((slaveRead r.slave m off 1 s).2.setResponse
        (some (.ok (.byte (byteOf (slaveRead r.slave m off 1 s).1 0))))) := by
  have hserved := h.served.setResponse x
  rw [hserved.exec_read rfl rfl]
  simp only [slaveReadU_of_aligned (Nat.mod_one _), h.offset, slaveRead_byte_setResponse h.can, byteOf, typedValue,
    BitVec.setWidth_eq_extractLsb' (show 8 ≤ 64 by decide)]
  rfl

/-- `WRITE8` of a served byte (42_bus.md R149). -/
theorem ByteServed.exec_write8 {addr : DWord} (h : ByteServed s m r .write addr off) (b : Byte) :
    exec (.write8 m addr b) (s.setResponse x) =
      .next ((slaveWrite r.slave m off 1 (b.setWidth 64) s).setResponse (some (.ok .none))) := by
  have hserved := h.served.setResponse x
  rw [hserved.exec_write rfl rfl]
  simp only [slaveWriteU_of_aligned (Nat.mod_one _), h.offset, slaveWrite_byte_setResponse h.can]
  rfl

/-! ### The bytes one after another -/

/-- The byte reads of R96 are `READ8` operations; the response they start from is arbitrary. -/
theorem runs_read8 {n : Nat} {addrAt : Nat → DWord} (h : ∀ k < n, ByteServed s m r .read (addrAt k) (off + k))
    (x : Option Response) :
    ∃ y, Runs ((List.range n).map fun k => .read8 m (addrAt k)) (s.setResponse x)
      ((readBytes r.slave m off n s).2.setResponse y)
      ((readBytes r.slave m off n s).1.map fun b => some (.ok (.byte b))) := by
  induction n generalizing s off addrAt x with
  | zero => exact ⟨x, runs_nil _⟩
  | succ n ih =>
    have hfirst := h 0 (Nat.succ_pos n)
    have hsame := deviceSteps_sameFabric (slaveRead_steps r.slave m off 1 s)
    have hrest : ∀ k < n, ByteServed (slaveRead r.slave m off 1 s).2 m r .read (addrAt (k + 1)) (off + 1 + k) := by
      intro k hk
      rw [Nat.add_right_comm, Nat.add_assoc]
      exact (h (k + 1) (Nat.succ_lt_succ hk)).frame hsame
    obtain ⟨y, hruns⟩ := ih hrest _
    refine ⟨y, ?_⟩
    rw [List.range_succ_eq_map, List.map_cons, List.map_map]
    exact runs_cons hfirst.exec_read8 hruns

/-- The byte writes of R97 are `WRITE8` operations; the response they start from is arbitrary. -/
theorem runs_write8 {n : Nat} {addrAt : Nat → DWord} (byteAt : Nat → Byte)
    (hend : off + n ≤ 2 ^ 64) (h : ∀ k < n, ByteServed s m r .write (addrAt k) (off + k)) (x : Option Response) :
    ∃ y, Runs ((List.range n).map fun k => .write8 m (addrAt k) (byteAt k)) (s.setResponse x)
      ((writeBytes r.slave m off ((List.range n).map byteAt) s).setResponse y)
      ((List.range n).map fun _ => some (.ok .none)) := by
  induction n generalizing s off addrAt byteAt x with
  | zero => exact ⟨x, runs_nil _⟩
  | succ n ih =>
    have hfirst := h 0 (Nat.succ_pos n)
    have hsame := deviceSteps_sameFabric
      (slaveWrite_steps r.slave m off 1 ((byteAt 0).setWidth 64) s (by omega))
    have hrest : ∀ k < n, ByteServed (slaveWrite r.slave m off 1 ((byteAt 0).setWidth 64) s) m r .write
        (addrAt (k + 1)) (off + 1 + k) := by
      intro k hk
      rw [Nat.add_right_comm, Nat.add_assoc]
      exact (h (k + 1) (Nat.succ_lt_succ hk)).frame hsame
    obtain ⟨y, hruns⟩ := ih (byteAt ∘ Nat.succ) (by omega) hrest _
    refine ⟨y, ?_⟩
    simp only [List.range_succ_eq_map, List.map_cons, List.map_map]
    exact runs_cons (hfirst.exec_write8 (byteAt 0)) hruns

/-! ### The bytes of one access -/

/-- With the ranges disjoint, decode finds the range that contains the address (42_bus.md R133). -/
theorem mapped_of_mem {addr : DWord} (h : RangesDisjoint s) (hr : r ∈ s.ranges) (hlo : r.low ≤ addr)
    (hhi : addr < r.high) : Mapped s addr r := by
  obtain ⟨-, hdisj⟩ := h
  obtain ⟨before, after, hsplit⟩ := List.append_of_mem hr
  rw [hsplit, List.pairwise_append] at hdisj
  obtain ⟨-, -, hcross⟩ := hdisj
  refine List.find?_eq_some_iff_append.2 ⟨by simp [rangeContains, hlo, hhi], before, after, hsplit, fun q hq => ?_⟩
  have hqr := hcross q hq r List.mem_cons_self
  simp only [rangeContains, Bool.not_eq_true', Bool.and_eq_false_iff, decide_eq_false_iff_not]
  bv_omega

theorem mem_of_mapped {addr : DWord} (h : Mapped s addr r) : r ∈ s.ranges ∧ r.low ≤ addr ∧ addr < r.high := by
  have hcontains := List.find?_some h
  simp only [rangeContains, Bool.and_eq_true, decide_eq_true_eq] at hcontains
  exact ⟨mem_ranges_of_mapped h, hcontains⟩

/-- The bytes of an access in a range lie in this range, at consecutive offsets. -/
theorem inRange_byte {addr : DWord} {len k : Nat} (hdisj : RangesDisjoint s) (h : InRange s addr len r) (hk : k < len) :
    InRange s (addr + BitVec.ofNat 64 k) 1 r ∧ localOffset r (addr + BitVec.ofNat 64 k) = localOffset r addr + k := by
  obtain ⟨hp, hm, hend⟩ := h
  obtain ⟨hmem, hlo, hhi⟩ := mem_of_mapped hm
  have hhigh := r.high.isLt
  simp only [BitVec.le_def, BitVec.lt_def, localOffset, rangeSize] at hlo hhi hend
  have haddr : (addr + BitVec.ofNat 64 k).toNat = addr.toNat + k := by
    rw [BitVec.toNat_add, BitVec.toNat_ofNat]
    omega
  have hmapped : Mapped s (addr + BitVec.ofNat 64 k) r := by
    refine mapped_of_mem hdisj hmem ?_ ?_ <;> simp only [BitVec.le_def, BitVec.lt_def, haddr] <;> omega
  refine ⟨⟨hp, hmapped, ?_⟩, ?_⟩ <;> simp only [localOffset, rangeSize, haddr] <;> omega

/-- A served misaligned access is served byte by byte (40_slave_core.md R92). -/
theorem Served.byteServed {a : Access} (h : Served s a r) (hdisj : RangesDisjoint s)
    (hmis : localOffset r a.addr % a.len ≠ 0) :
    ∀ k < a.len, ByteServed s a.master r a.dir (a.addr + BitVec.ofNat 64 k) (localOffset r a.addr + k) := by
  intro k hk
  obtain ⟨hin, hoff⟩ := inRange_byte hdisj h.in_range hk
  exact ⟨hin, hoff, canAccess_byte.symm.trans ((canAccess_of_misaligned hmis).1 h.can k hk)⟩

@[simp] theorem readBytes_length (sl m : Ident) (off n : Nat) (s : State) : (readBytes sl m off n s).1.length = n := by
  induction n generalizing off s with
  | zero => rfl
  | succ n ih => simp [readBytes, ih]

/-- The bytes of a composed value are the composed bytes (20_memory.md R44). -/
theorem bytesLe_fromLe {bs : List Byte} (h : bs.length ≤ 8) : bytesLe (fromLe bs) bs.length = bs := by
  refine List.ext_getElem (bytesLe_length _ _) fun k _ hk => ?_
  rw [bytesLe_getElem, byteOf_fromLe bs k hk h]

/-- Settles O21: the bytes of the access are served, and performed one after another they are R96 and R97. -/
theorem unalignedIsBytewise : Obligations.UnalignedIsBytewise := by
  intro i s a r hi hu hdisj hin hmis hcan
  have hserved : Served s a r := ⟨hin, .inl hu, hcan⟩
  have hbytes := hserved.byteServed hdisj hmis
  obtain ⟨-, hlen⟩ := accessLen_bounds (isAccessLen_of_accessOf hi)
  refine ⟨fun hd => ?_, fun hd => ?_⟩
  · have hexec := hserved.exec_read hi hd
    rw [slaveReadU_of_misaligned hmis] at hexec
    rw [hd] at hbytes
    obtain ⟨y, hrun, hresps⟩ := runs_read8 hbytes s.response
    refine ⟨_, _, _, hexec, rfl, hrun, hresps.trans ?_, rfl⟩
    have hvalue := bytesLe_fromLe (bs := (readBytes r.slave a.master (localOffset r a.addr) a.len s).1)
      (by rwa [readBytes_length])
    rw [readBytes_length] at hvalue
    conv_lhs => rw [← hvalue]
    exact List.map_map
  · have hexec := hserved.exec_write hi hd
    rw [slaveWriteU_of_misaligned hmis] at hexec
    rw [hd] at hbytes
    obtain ⟨y, hrun, hresps⟩ := runs_write8 (byteOf (writeValue i)) (inRange_lt hin) hbytes s.response
    exact ⟨_, _, hexec, rfl, hrun, hresps, rfl⟩

end Sys2Proof.Proofs
end

section
/-! What an offset of a register bank selects: the class is that of the table of 41_register_bank.md R111, and it is the same
in every state whose bank has cells at the same offsets. -/

namespace Sys2Proof.Proofs

open Sys2Proof.Machine Sys2Proof.Safety Sys2Proof.Laws

variable {s t : State} {sl : Ident} {k : SlaveKind} {off : Nat} {dir : Dir}

/-! ### The conditions of the table -/

theorem mem_overridesOf : off ∈ overridesOf k dir ↔ overrideAt k dir off := by
  cases k with
  | sec | pri | tmr | bank | ram | other =>
    cases dir <;> simp [overridesOf, readOverrides, writeOverrides, overrideAt]

theorem hasCell_iff_cellAt : hasCell s sl off = true ↔ cellAt s sl off := by
  rw [hasCell_iff, Option.isSome_iff_exists, cellAt]

theorem mem_reservedOffsets : off ∈ reservedOffsets k ↔ reservedAt k off := by
  cases k with
  | sec | pri | tmr | ram | other => simp [reservedOffsets, reservedAt]
  | bank b => rfl

theorem defaultHandler_ne_fault_iff : defaultHandler k ≠ .fault ↔ hasDefault k := by
  cases k with
  | sec | pri | tmr | bank | ram | other => simp [defaultHandler, hasDefault]

/-! ### The class -/

theorem bankClass_eq_override (hlt : off < 2 ^ 32) (h : overrideAt k dir off) : bankClass s sl k off dir = .override :=
  if_pos ⟨hlt, mem_overridesOf.2 h⟩

/-- Without an override the cell, the reserved list and the default handler decide, in this order. -/
theorem bankClass_of_not_override (h : ¬ (off < 2 ^ 32 ∧ overrideAt k dir off)) :
    bankClass s sl k off dir =
      if hasCell s sl off then .cell
      else if off ∈ reservedOffsets k then .reserved
      else if defaultHandler k ≠ .fault then .dflt
      else .undecoded :=
  if_neg (by rwa [mem_overridesOf])

/-- The class of an offset is the first of the table that applies (41_register_bank.md R111). -/
theorem classTable (s : State) (sl : Ident) (k : SlaveKind) (off : Nat) (dir : Dir) : ClassTable s sl k off dir := by
  by_cases hovr : off < 2 ^ 32 ∧ overrideAt k dir off
  · have hclass : bankClass s sl k off dir = .override := bankClass_eq_override hovr.1 hovr.2
    constructor <;> simp [-Nat.reducePow, hclass, hovr]
  have hclass := bankClass_of_not_override (s := s) (sl := sl) hovr
  by_cases hcell : cellAt s sl off
  · rw [if_pos (hasCell_iff_cellAt.2 hcell)] at hclass
    constructor <;> simp [-Nat.reducePow, hclass, hovr, hcell]
  rw [if_neg (mt hasCell_iff_cellAt.1 hcell)] at hclass
  by_cases hres : reservedAt k off
  · rw [if_pos (mem_reservedOffsets.2 hres)] at hclass
    constructor <;> simp [-Nat.reducePow, hclass, hovr, hcell, hres]
  rw [if_neg (mt mem_reservedOffsets.1 hres)] at hclass
  by_cases hdflt : hasDefault k
  · rw [if_pos (defaultHandler_ne_fault_iff.2 hdflt)] at hclass
    constructor <;> simp [-Nat.reducePow, hclass, hovr, hcell, hres, hdflt]
  · rw [if_neg (mt defaultHandler_ne_fault_iff.1 hdflt)] at hclass
    constructor <;> simp [-Nat.reducePow, hclass, hovr, hcell, hres, hdflt]

/-- The class depends on the state through the offsets of the bank's cells only. -/
theorem bankClass_frame (h : hasCell t sl off = hasCell s sl off) :
    bankClass t sl k off dir = bankClass s sl k off dir := by
  rw [bankClass, bankClass, h]

theorem bankDecodes_iff : bankDecodes s sl k off dir = true ↔ bankClass s sl k off dir ≠ .undecoded :=
  decide_eq_true_iff

/-! ### A word by its class -/

theorem bankReadWord_of_override (h : bankClass s sl k off .read = .override) :
    bankReadWord sl k off s = readOverride sl k off s := by
  simp only [bankReadWord, h]

theorem bankReadWord_of_cell (h : bankClass s sl k off .read = .cell) :
    bankReadWord sl k off s = (cellValue s sl off, s) := by
  simp only [bankReadWord, h]

theorem bankReadWord_of_reserved (h : bankClass s sl k off .read = .reserved) : bankReadWord sl k off s = (0, s) := by
  simp only [bankReadWord, h]

theorem bankReadWord_of_dflt (h : bankClass s sl k off .read = .dflt) :
    bankReadWord sl k off s = readDefault sl k off s := by
  simp only [bankReadWord, h]

theorem bankWriteWord_of_override (h : bankClass s sl k off .write = .override) (v : Word) :
    bankWriteWord sl k off v s = writeOverride sl k off v s := by
  simp only [bankWriteWord, h]

theorem bankWriteWord_of_cell (h : bankClass s sl k off .write = .cell) (v : Word) :
    bankWriteWord sl k off v s = setCell sl off v s := by
  simp only [bankWriteWord, h]

theorem bankWriteWord_of_reserved (h : bankClass s sl k off .write = .reserved) (v : Word) :
    bankWriteWord sl k off v s = s := by
  simp only [bankWriteWord, h]

theorem bankWriteWord_of_dflt (h : bankClass s sl k off .write = .dflt) (v : Word) :
    bankWriteWord sl k off v s = writeDefault sl k off v s := by
  simp only [bankWriteWord, h]

theorem cellValue_of_mapGet {cell : RegCell} (h : mapGet s.bank (cellKey sl off) = some cell) :
    cellValue s sl off = cell.currentValue := by
  simp only [cellValue, h]

end Sys2Proof.Proofs
end

section
/-! Accesses to a register bank (40_slave_core.md R91, R94, R95; 41_register_bank.md R112, R114, R116, R119): the capability
is the bank's own, a served access is the bank's word or double word, and a `SUPPORTS_M` that admits the access adds no
test. -/

namespace Sys2Proof.Proofs

open Sys2Proof.Machine Sys2Proof.Safety Sys2Proof.Laws

variable {s t : State} {i : Instr} {a : Access} {r : Range} {sl m : Ident} {k : SlaveKind} {addr : DWord} {u : Bool}
  {off len : Nat} {dir : Dir}

/-! ### The slave -/

theorem kindSupports_bank (hb : isBankKind k = true) (s : State) (sl m : Ident) (off len : Nat) (dir : Dir) :
    kindSupports s sl k m off len dir = bankSupports s sl k off len dir := by
  cases k with
  | sec | pri | tmr | bank => rfl
  | ram | other => cases hb

/-- A bank supports no more than its own capability, whatever its `SUPPORTS_M` admits. -/
theorem bankSupports_of_supports (hk : kindOf s.cfg sl = some k) (hb : isBankKind k = true)
    (h : supports s sl m off len dir = true) : bankSupports s sl k off len dir = true := by
  obtain ⟨k', hk', hsup, -⟩ := supports_eq_true.1 h
  obtain rfl : k = k' := Option.some.inj (hk.symm.trans hk')
  rwa [kindSupports_bank hb] at hsup

/-- An admitted access has the bank's own capability. -/
theorem supports_bank (h : AdmittedSlave s sl k m off len) (hb : isBankKind k = true) :
    supports s sl m off len dir = bankSupports s sl k off len dir := by
  obtain ⟨hk, hadmit⟩ := h
  refine Bool.eq_iff_iff.2 ⟨bankSupports_of_supports hk hb, fun hsup => ?_⟩
  exact supports_eq_true.2 ⟨k, hk, by rwa [kindSupports_bank hb], hadmit⟩

theorem slaveRead_bank (hk : kindOf s.cfg sl = some k) (hb : isBankKind k = true) (m : Ident) (off len : Nat) :
    slaveRead sl m off len s = bankRead sl k off len s := by
  cases k with
  | sec | pri | tmr | bank => simp only [slaveRead, hk]
  | ram | other => cases hb

theorem slaveWrite_bank (hk : kindOf s.cfg sl = some k) (hb : isBankKind k = true) (m : Ident) (off len : Nat)
    (v : DWord) : slaveWrite sl m off len v s = bankWrite sl k off len v s := by
  cases k with
  | sec | pri | tmr | bank => simp only [slaveWrite, hk]
  | ram | other => cases hb

theorem admitted_of_plainSlave (h : PlainSlave s sl k) (m : Ident) (off len : Nat) : AdmittedSlave s sl k m off len := by
  obtain ⟨hk, hplain⟩ := h
  exact ⟨hk, fun hm => absurd hm hplain⟩

/-! ### The access -/

/-- An access in the range of a register bank, at an aligned offset, which a `SUPPORTS_M` of the bank admits. -/
structure BankAccess (s : State) (a : Access) (r : Range) (k : SlaveKind) : Prop where
  in_range : InRange s a.addr a.len r
  admitted : AdmittedSlave s r.slave k a.master (localOffset r a.addr) a.len
  bank : isBankKind k = true
  aligned : localOffset r a.addr % a.len = 0

theorem BankAccess.canAccess (h : BankAccess s a r k) (dir : Dir) :
    canAccess s r.slave a.master (localOffset r a.addr) a.len dir =
      bankSupports s r.slave k (localOffset r a.addr) a.len dir := by
  rw [canAccess_of_aligned h.aligned, supports_bank h.admitted h.bank]

theorem BankAccess.served (h : BankAccess s a r k)
    (hsup : bankSupports s r.slave k (localOffset r a.addr) a.len a.dir = true) : Served s a r :=
  ⟨h.in_range, .inr h.aligned, (h.canAccess a.dir).trans hsup⟩

theorem BankAccess.faultsWith (h : BankAccess s a r k) (hi : accessOf i = some a)
    (hsup : bankSupports s r.slave k (localOffset r a.addr) a.len a.dir = false) :
    FaultsWith i s a .unsupportedAccess :=
  faultsWith_of_canAccess_false hi h.in_range ((h.canAccess a.dir).trans hsup)

theorem BankAccess.exec_read (h : BankAccess s a r k) (hi : accessOf i = some a) (hd : a.dir = .read)
    (hsup : bankSupports s r.slave k (localOffset r a.addr) a.len a.dir = true) :
    exec i s = .next (respond (typedValue a.len (bankRead r.slave k (localOffset r a.addr) a.len s).1)
      (bankRead r.slave k (localOffset r a.addr) a.len s).2) := by
  obtain ⟨hk, -⟩ := h.admitted
  rw [(h.served hsup).exec_read hi hd, slaveReadU_of_aligned h.aligned, slaveRead_bank hk h.bank]

theorem BankAccess.exec_write (h : BankAccess s a r k) (hi : accessOf i = some a) (hd : a.dir = .write)
    (hsup : bankSupports s r.slave k (localOffset r a.addr) a.len a.dir = true) :
    exec i s = .next (respond .none
      (bankWrite r.slave k (localOffset r a.addr) a.len (writeValue i) s)) := by
  obtain ⟨hk, -⟩ := h.admitted
  rw [(h.served hsup).exec_write hi hd, slaveWriteU_of_aligned h.aligned, slaveWrite_bank hk h.bank]

/-! ### Words -/

theorem bankSupports_word : bankSupports s sl k off 4 dir = true ↔ bankClass s sl k off dir ≠ .undecoded :=
  bankDecodes_iff

theorem typedValue_word (v : Word) : typedValue 4 (v.setWidth 64) = .word v :=
  congrArg Data.word (BitVec.setWidth_setWidth_of_le v (by decide) |>.trans (BitVec.setWidth_eq v))

/-- A served 32-bit read is the bank's word read (41_register_bank.md R112). -/
theorem BankAccess.exec_readWord (h : BankAccess s ⟨m, addr, 4, u, .read⟩ r k)
    (hi : accessOf i = some ⟨m, addr, 4, u, .read⟩)
    (hclass : bankClass s r.slave k (localOffset r addr) .read ≠ .undecoded) {v : Word}
    (hword : bankReadWord r.slave k (localOffset r addr) s = (v, t)) : exec i s = .next (respond (.word v) t) := by
  rw [h.exec_read hi rfl (bankSupports_word.2 hclass), ← typedValue_word]
  simp only [bankRead, Nat.reduceEqDiff, if_false, hword]

/-- A served 32-bit write is the bank's word write (41_register_bank.md R114). -/
theorem BankAccess.exec_writeWord (h : BankAccess s ⟨m, addr, 4, u, .write⟩ r k)
    (hi : accessOf i = some ⟨m, addr, 4, u, .write⟩)
    (hclass : bankClass s r.slave k (localOffset r addr) .write ≠ .undecoded)
    (hword : bankWriteWord r.slave k (localOffset r addr) (lowWord (writeValue i)) s = t) :
    exec i s = .next (respond .none t) := by
  subst hword
  exact h.exec_write hi rfl (bankSupports_word.2 hclass)

theorem BankAccess.faultsWith_undecoded (h : BankAccess s ⟨m, addr, 4, u, dir⟩ r k)
    (hi : accessOf i = some ⟨m, addr, 4, u, dir⟩)
    (hclass : bankClass s r.slave k (localOffset r addr) dir = .undecoded) :
    FaultsWith i s ⟨m, addr, 4, u, dir⟩ .unsupportedAccess :=
  h.faultsWith hi (Bool.eq_false_iff.2 fun hsup => bankSupports_word.1 hsup hclass)

end Sys2Proof.Proofs
end

section
/-! A 32-bit read and a 32-bit write of a register bank, by the class of the offset (41_register_bank.md R111 to R118). -/

namespace Sys2Proof.Proofs

open Sys2Proof.Machine Sys2Proof.Safety Sys2Proof.Laws

variable {s : State} {i : Instr} {r : Range} {sl m : Ident} {k : SlaveKind} {addr : DWord} {u : Bool} {off : Nat}

/-! ### The default handler of a generic bank (41_register_bank.md R118) -/

theorem readDefault_of_zero {b : BankCfg} (h : b.dflt = .zero) : readDefault sl (.bank b) off s = (0, s) := by
  simp only [readDefault, defaultHandler, h]

theorem readDefault_of_const {b : BankCfg} {w : Word} (h : b.dflt = .const w) :
    readDefault sl (.bank b) off s = (w, s) := by
  simp only [readDefault, defaultHandler, h]

theorem readDefault_of_fn {b : BankCfg} (h : b.dflt = .fn) :
    readDefault sl (.bank b) off s =
      ((Config.readDefault sl off (stateView s sl)).1,
        applyEffect sl (Config.readDefault sl off (stateView s sl)).2 s) := by
  simp only [readDefault, defaultHandler, h]

theorem writeDefault_of_zero {b : BankCfg} (h : b.dflt = .zero) (v : Word) : writeDefault sl (.bank b) off v s = s := by
  simp only [writeDefault, defaultHandler, h]

theorem writeDefault_of_const {b : BankCfg} {w : Word} (h : b.dflt = .const w) (v : Word) :
    writeDefault sl (.bank b) off v s = s := by
  simp only [writeDefault, defaultHandler, h]

theorem writeDefault_of_fn {b : BankCfg} (h : b.dflt = .fn) (v : Word) :
    writeDefault sl (.bank b) off v s = applyEffect sl (Config.writeDefault sl off v (stateView s sl)) s := by
  simp only [writeDefault, defaultHandler, h]

/-! ### Reads -/

theorem exists_cell_of_bankClass {dir : Dir} (h : bankClass s sl k off dir = .cell) :
    ∃ cell, mapGet s.bank (cellKey sl off) = some cell := by
  obtain ⟨-, -, hcell⟩ := (classTable s sl k off dir).cell.1 h
  exact hcell

/-- Settles O26: the table, then the word read of each class. -/
theorem bankWordReads : Obligations.BankWordReads := by
  intro i s m addr u r k hi hin hadmit hb halign
  have hacc : BankAccess s ⟨m, addr, 4, u, .read⟩ r k := ⟨hin, hadmit, hb, halign⟩
  refine ⟨classTable s r.slave k _, fun hclass => ?override, fun b hk hclass => ?bankOverride, fun hclass => ?cell,
    fun hclass => ?reserved, fun b hk hclass => ?dflt, hacc.faultsWith_undecoded hi⟩
  case override => exact hacc.exec_readWord hi (by simp [hclass]) (bankReadWord_of_override hclass)
  case bankOverride =>
    subst hk
    exact hacc.exec_readWord hi (by simp [hclass]) (bankReadWord_of_override hclass)
  case cell =>
    obtain ⟨cell, hcell⟩ := exists_cell_of_bankClass hclass
    refine ⟨cell, hcell, hacc.exec_readWord hi (by simp [hclass]) ?_⟩
    rw [bankReadWord_of_cell hclass, cellValue_of_mapGet hcell]
  case reserved => exact hacc.exec_readWord hi (by simp [hclass]) (bankReadWord_of_reserved hclass)
  case dflt =>
    subst hk
    have hword {v : Word} {t : State} (hread : readDefault r.slave (.bank b) (localOffset r addr) s = (v, t)) :=
      hacc.exec_readWord hi (by simp [hclass]) ((bankReadWord_of_dflt hclass).trans hread)
    exact ⟨fun hd => hword (readDefault_of_zero hd), fun w hd => hword (readDefault_of_const hd),
      fun hd => hword (readDefault_of_fn hd)⟩

/-! ### Writes -/

/-- A plain cell takes all 32 bits, and nothing else changes (41_register_bank.md R114). -/
theorem setCell_of_mapGet {cell : RegCell} (h : mapGet s.bank (cellKey sl off) = some cell) (v : Word) :
    setCell sl off v s = s.setBank (mapSet s.bank (cellKey sl off) ⟨cell.name, cell.resetValue, v⟩) := by
  simp only [setCell, h]

/-- Settles O27: the table, then the word write of each class. -/
theorem bankWordWrites : Obligations.BankWordWrites := by
  intro i s m addr u r k hi hin hadmit hb halign
  have hacc : BankAccess s ⟨m, addr, 4, u, .write⟩ r k := ⟨hin, hadmit, hb, halign⟩
  refine ⟨classTable s r.slave k _ .write, fun hclass => ?override, fun b hk hclass => ?bankOverride,
    fun hclass => ?cell, fun hclass => ?reserved, fun b hk hclass => ?dflt, hacc.faultsWith_undecoded hi⟩
  case override => exact hacc.exec_writeWord hi (by simp [hclass]) (bankWriteWord_of_override hclass _)
  case bankOverride =>
    subst hk
    exact hacc.exec_writeWord hi (by simp [hclass]) (bankWriteWord_of_override hclass _)
  case cell =>
    obtain ⟨cell, hcell⟩ := exists_cell_of_bankClass hclass
    exact ⟨_, cell, hacc.exec_writeWord hi (by simp [hclass])
      ((bankWriteWord_of_cell hclass _).trans (setCell_of_mapGet hcell _)), rfl, rfl, hcell,
      mapGet_mapSet_same _ _ _, fun key hkey => mapGet_mapSet_other _ _ hkey⟩
  case reserved => exact hacc.exec_writeWord hi (by simp [hclass]) (bankWriteWord_of_reserved hclass _)
  case dflt =>
    subst hk
    have hword {t : State}
        (hwrite : writeDefault r.slave (.bank b) (localOffset r addr) (lowWord (writeValue i)) s = t) :=
      hacc.exec_writeWord hi (by simp [hclass]) ((bankWriteWord_of_dflt hclass _).trans hwrite)
    exact ⟨fun hd => hword (writeDefault_of_zero hd _), fun w hd => hword (writeDefault_of_const hd _),
      fun hd => hword (writeDefault_of_fn hd _)⟩

end Sys2Proof.Proofs
end

section
/-! The registers of SEC, PRI and TMR with an override: what the read overrides answer, bit by bit, and which write overrides
drop the write (10_state.md R20 to R23; 41_register_bank.md R113, R115). -/

namespace Sys2Proof.Proofs

open Sys2Proof.Machine Sys2Proof.Safety Sys2Proof.Laws

variable {s : State} {i : Instr} {r : Range} {m : Ident} {k : SlaveKind} {addr : DWord} {u : Bool} {off j : Nat}
  {dir : Dir}

/-! ### The views of the controllers, bit by bit -/

/-- The mask `LM(n)` keeps the bits below `n` (10_state.md R20). -/
theorem getLsbD_and_lineMask (v : Word) (n j : Nat) :
    (v &&& lineMask n).getLsbD j = (decide (j < n) && v.getLsbD j) := by
  rw [BitVec.getLsbD_and, getLsbD_lineMask]
  by_cases hj : j < 32
  · simp only [hj, decide_true, Bool.true_and, Bool.and_comm]
  · simp only [BitVec.getLsbD_of_ge v j (by omega), Bool.false_and, Bool.and_false]

theorem getLsbD_rawOf (s : State) (ctl : Ctrl) (j : Nat) :
    (rawOf s ctl).getLsbD j = (decide (j < lineCount s.cfg ctl) && (controller s ctl).raw.getLsbD j) :=
  getLsbD_and_lineMask _ _ _

theorem getLsbD_fiqselView (c : Cfg) (j : Nat) :
    (fiqselView c).getLsbD j = (decide (j < c.nPri) && c.fiqsel.getLsbD j) :=
  getLsbD_and_lineMask _ _ _

/-- The cascade bit shows the secondary's aggregate, every other bit the stored one (43_interrupt_fabric.md R177). -/
theorem getLsbD_priRawEff (s : State) (hj : j < 32) :
    (priRawEff s).getLsbD j =
      (decide (j < s.cfg.nPri) && if s.cfg.cascade = some j then secAggr s else s.pri.raw.getLsbD j) := by
  have hraw : (rawOf s .pri).getLsbD j = (decide (j < s.cfg.nPri) && s.pri.raw.getLsbD j) := getLsbD_rawOf s .pri j
  unfold priRawEff
  cases hc : s.cfg.cascade with
  | none => exact hraw
  | some l =>
    dsimp only
    rw [getLsbD_and_lineMask, getLsbD_setBit, hraw]
    by_cases hl : j = l
    · rw [if_pos ⟨hl, hj⟩, if_pos (congrArg some hl.symm)]
    · rw [if_neg (fun h => hl h.1), if_neg (fun h => hl (Option.some.inj h).symm), Bool.and_self_left]

theorem getLsbD_priOut (s : State) (j : Nat) :
    (priOut s).getLsbD j = if j = 0 then irq s else if j = 1 then fiq s else false := by
  simp only [priOut, BitVec.getLsbD_append, BitVec.getLsbD_ofBool, BitVec.getLsbD_zero]
  rcases j with _ | _ | j <;> simp

/-! ### Reads -/

/-- An override lies below 2^32, where a bank's offsets are (20_memory.md R41). -/
theorem overrideAt_lt (h : overrideAt k dir off) : off < 2 ^ 32 := by
  cases k with
  | sec | pri | tmr => cases dir <;> simp only [overrideAt] at h <;> omega
  | bank b =>
    cases dir <;>
    · obtain ⟨o, -, rfl⟩ := h
      exact o.isLt
  | ram | other => cases h

theorem bankClass_of_overrideAt {sl : Ident} (h : overrideAt k dir off) : bankClass s sl k off dir = .override :=
  bankClass_eq_override (overrideAt_lt h) h

/-- A read override of SEC, PRI or TMR answers its value and changes nothing (41_register_bank.md R113). -/
theorem answers_readOverride (hi : accessOf i = some ⟨m, addr, 4, u, .read⟩) (hin : InRange s addr 4 r)
    (hk : PlainSlave s r.slave k) (hfix : FixedKind k) (hb : isBankKind k = true) (hoff : localOffset r addr = off)
    (halign : off % 4 = 0) (hovr : overrideAt k .read off) :
    Answers i s (.word (readOverride r.slave k off s).1) := by
  subst hoff
  have hacc : BankAccess s ⟨m, addr, 4, u, .read⟩ r k := ⟨hin, admitted_of_plainSlave hk m _ _, hb, halign⟩
  have hclass : bankClass s r.slave k (localOffset r addr) .read = .override := bankClass_of_overrideAt hovr
  refine hacc.exec_readWord hi (by simp [hclass]) ?_
  rw [bankReadWord_of_override hclass]
  exact Prod.ext rfl (readOverride_snd hfix _ _ _)

/-- Settles O29: each register has a read override, and its bits are those of the view it answers. -/
theorem fixedRegisterReads : Obligations.FixedRegisterReads := by
  intro i s m addr u r k hi hin hk
  refine ⟨?secRaw, ?secMasked, ?priRaw, ?priMasked, ?fiqsel, ?priOut, ?tmrFlag⟩
  case secRaw =>
    rintro rfl hoff
    exact ⟨rawOf s .sec, answers_readOverride hi hin hk (.inl rfl) rfl hoff rfl (.inl rfl),
      fun j _ => getLsbD_rawOf s .sec j⟩
  case secMasked =>
    rintro rfl hoff
    refine ⟨secMasked s, answers_readOverride hi hin hk (.inl rfl) rfl hoff rfl (.inr rfl), fun j _ => ?_⟩
    rw [secMasked, BitVec.getLsbD_and, getLsbD_rawOf s .sec j]
    rfl
  case priRaw =>
    rintro rfl hoff
    exact ⟨priRawEff s, answers_readOverride hi hin hk (.inr (.inl rfl)) rfl hoff rfl (.inl rfl),
      fun j hj => getLsbD_priRawEff s hj⟩
  case priMasked =>
    rintro rfl hoff
    refine ⟨priMasked s, answers_readOverride hi hin hk (.inr (.inl rfl)) rfl hoff rfl (.inr (.inl rfl)),
      fun j hj => ?_⟩
    rw [priMasked, BitVec.getLsbD_and, getLsbD_priRawEff s hj]
  case fiqsel =>
    rintro rfl hoff
    exact ⟨fiqselView s.cfg,
      answers_readOverride hi hin hk (.inr (.inl rfl)) rfl hoff rfl (.inr (.inr (.inl rfl))),
      fun j _ => getLsbD_fiqselView s.cfg j⟩
  case priOut =>
    rintro rfl hoff
    exact ⟨priOut s, answers_readOverride hi hin hk (.inr (.inl rfl)) rfl hoff rfl (.inr (.inr (.inr rfl))),
      fun j _ => getLsbD_priOut s j⟩
  case tmrFlag =>
    rintro rfl hoff
    exact answers_readOverride hi hin hk (.inr (.inr (.inl rfl))) rfl hoff rfl rfl

/-! ### Writes -/

/-- A controller's write overrides but that of ENABLE drop the write (41_register_bank.md R115). -/
theorem writeOverride_of_readOnly {sl : Ident} (hk : k = .sec ∨ k = .pri) (hoff : off ≠ 0x04) (v : Word) :
    writeOverride sl k off v s = s := by
  rcases hk with rfl | rfl
  · exact if_neg hoff
  · exact if_neg hoff

/-- Settles O30: a read-only register has a write override, which drops the write. -/
theorem readOnlyWritesDropped : Obligations.ReadOnlyWritesDropped := by
  intro i s m addr u r k hi hin hk hreg
  have hctl : k = .sec ∨ k = .pri := hreg.imp And.left And.left
  have hb : isBankKind k = true := by rcases hctl with rfl | rfl <;> rfl
  have hovr : overrideAt k .write (localOffset r addr) := by
    rcases hreg with ⟨rfl, hoff⟩ | ⟨rfl, hoff⟩ <;> simp only [overrideAt] <;> omega
  have hclass : bankClass s r.slave k (localOffset r addr) .write = .override := bankClass_of_overrideAt hovr
  have hacc : BankAccess s ⟨m, addr, 4, u, .write⟩ r k :=
    ⟨hin, admitted_of_plainSlave hk m _ _, hb, show localOffset r addr % 4 = 0 by omega⟩
  refine hacc.exec_writeWord hi (by simp [hclass]) ?_
  rw [bankWriteWord_of_override hclass, writeOverride_of_readOnly hctl (by omega)]

end Sys2Proof.Proofs
end

section
/-! A word written to a register bank and read back (41_register_bank.md R120). -/

namespace Sys2Proof.Proofs

open Sys2Proof.Machine Sys2Proof.Safety Sys2Proof.Laws

variable {s t : State} {r : Range} {sl m : Ident} {k : SlaveKind} {addr : DWord} {off : Nat} {v back : Word}

/-- A write to a bank keeps the class of every offset: it adds and removes no cell. -/
theorem bankClass_bankWriteWord (hk : kindOf s.cfg sl = some k) (off off' : Nat) (v : Word) (dir : Dir) :
    bankClass (bankWriteWord sl k off v s) sl k off' dir = bankClass s sl k off' dir :=
  bankClass_frame (deviceSteps_hasCell (bankWriteWord_steps sl k off v s hk) sl off')

theorem lowWord_writeValue_write32 (m : Ident) (addr : DWord) (v : Word) : lowWord (writeValue (.write32 m addr v)) = v :=
  extractLsb'_setWidth_dword (by decide) v

/-- The write clears `PEND` where bit 0 of `v` is set, and nothing else of the register is ever set
(44_device_threads.md R207). -/
theorem cellValue_writeTmrStat (h : hasCell s sl 0x0C = true) (v : Word) :
    cellValue (writeTmrStat sl v s) sl 0x0C = cellValue s sl 0x0C &&& ~~~v &&& 1 := by
  simp only [writeTmrStat]
  split
  · rw [cellValue_frame (driveOutput_bank _ _ _), cellValue_setCell_same _ _ _ _ h]
  · exact cellValue_setCell_same _ _ _ _ h

/-- A word of a register bank that `WRITE32` and `READ32` reach: in range, without a `SUPPORTS_M`, at an aligned offset. -/
structure BankWord (s : State) (addr : DWord) (r : Range) (k : SlaveKind) (off : Nat) : Prop where
  in_range : InRange s addr 4 r
  plain : PlainSlave s r.slave k
  bank : isBankKind k = true
  offset : localOffset r addr = off
  aligned : off % 4 = 0

theorem BankWord.access (h : BankWord s addr r k off) (m : Ident) (dir : Dir) :
    BankAccess s ⟨m, addr, 4, false, dir⟩ r k :=
  ⟨h.in_range, admitted_of_plainSlave h.plain m _ _, h.bank, h.offset ▸ h.aligned⟩

theorem BankWord.frame (h : BankWord s addr r k off) (hst : SameFabric s t) : BankWord t addr r k off :=
  ⟨inRange_frame h.in_range hst.phase hst.ranges, plainSlave_frame h.plain hst.cfg, h.bank, h.offset, h.aligned⟩

theorem BankWord.exec_write32 (h : BankWord s addr r k off) (m : Ident)
    (hclass : bankClass s r.slave k off .write ≠ .undecoded) (hword : bankWriteWord r.slave k off v s = t) :
    exec (.write32 m addr v) s = .next (respond .none t) := by
  obtain rfl := h.offset
  refine (h.access m .write).exec_writeWord rfl hclass ?_
  rw [lowWord_writeValue_write32]
  exact hword

theorem BankWord.answers_read32 (h : BankWord s addr r k off) (m : Ident)
    (hclass : bankClass s r.slave k off .read ≠ .undecoded) (hword : bankReadWord r.slave k off s = (v, s)) :
    Answers (.read32 m addr) s (.word v) := by
  obtain rfl := h.offset
  exact (h.access m .read).exec_readWord rfl hclass hword

/-- What a write leaves in `t` is what the read after it shows. -/
theorem BankWord.write_read (h : BankWord s addr r k off) (m : Ident)
    (hwrite : bankClass s r.slave k off .write ≠ .undecoded) (hread : bankClass s r.slave k off .read ≠ .undecoded)
    (ht : bankWriteWord r.slave k off v s = t)
    (hback : bankClass t r.slave k off .read = bankClass s r.slave k off .read →
      bankReadWord r.slave k off (respond .none t) = (back, respond .none t)) :
    ∃ t, exec (.write32 m addr v) s = .next t ∧ t.response = some (.ok .none) ∧
      Answers (.read32 m addr) t (.word back) := by
  have ⟨hk, _⟩ := h.plain
  have hsame : SameFabric s t := ht ▸ deviceSteps_sameFabric (bankWriteWord_steps r.slave k off v s hk)
  have hclass : bankClass t r.slave k off .read = bankClass s r.slave k off .read :=
    ht ▸ bankClass_bankWriteWord hk off off v .read
  have hword : BankWord (respond .none t) addr r k off :=
    ⟨(h.frame hsame).in_range, (h.frame hsame).plain, h.bank, h.offset, h.aligned⟩
  exact ⟨respond .none t, h.exec_write32 m hwrite ht, rfl,
    hword.answers_read32 m (hclass.trans_ne hread) (hback hclass)⟩

/-- Where the read class is `Cell`, the read shows the value the write left in the cell. -/
theorem BankWord.write_read_cell (h : BankWord s addr r k off) (m : Ident)
    (hwrite : bankClass s r.slave k off .write ≠ .undecoded) (hread : bankClass s r.slave k off .read = .cell)
    (ht : bankWriteWord r.slave k off v s = t) (hback : cellValue t r.slave off = back) :
    ∃ t, exec (.write32 m addr v) s = .next t ∧ t.response = some (.ok .none) ∧
      Answers (.read32 m addr) t (.word back) := by
  refine h.write_read m hwrite (by simp [hread]) ht fun hclass => ?_
  subst hback
  exact bankReadWord_of_cell (s := respond .none t) (hclass.trans hread)

/-- Settles O28: by the two classes of the offset, what the write leaves in the cell and what the read shows of it. -/
theorem bankRoundTrip : Obligations.BankRoundTrip := by
  intro s m addr v r k hin hk hb halign back hcase
  have hword {off : Nat} (hoff : localOffset r addr = off) : BankWord s addr r k off :=
    ⟨hin, hk, hb, hoff, hoff ▸ halign⟩
  rcases hcase with ⟨hread, hwrite, rfl⟩ | ⟨hcell, ⟨rfl, hoff, rfl⟩ | ⟨rfl, hoff, rfl⟩ | ⟨rfl, hoff, rfl⟩ |
    ⟨rfl, hoff, rfl⟩⟩
  · obtain ⟨-, -, hcell⟩ := cell_class_write hwrite
    exact (hword rfl).write_read_cell m (by simp [hwrite]) hread (bankWriteWord_of_cell hwrite _)
      (cellValue_setCell_same _ _ _ _ hcell)
  all_goals rw [hoff] at hcell
  · have hwrite : bankClass s r.slave .tmr 0x14 .write = .cell := bankClass_eq_cell (by decide) hcell
    have hread {t : State} : bankClass t r.slave .tmr 0x14 .read = .override := bankClass_of_overrideAt rfl
    refine (hword hoff).write_read m (by simp [hwrite]) (by simp [hread]) (bankWriteWord_of_cell hwrite _)
      fun _ => ?_
    rw [bankReadWord_of_override hread]
    exact congrArg (fun w => (w ||| 1, _)) (cellValue_setCell_same _ _ _ _ hcell)
  · have hwrite : bankClass s r.slave .sec 0x04 .write = .override := bankClass_of_overrideAt (.inr (.inl rfl))
    exact (hword hoff).write_read_cell m (by simp [hwrite]) (bankClass_eq_cell (by decide) hcell)
      (bankWriteWord_of_override hwrite _) (cellValue_setCell_same _ _ _ _ hcell)
  · have hwrite : bankClass s r.slave .pri 0x04 .write = .override := bankClass_of_overrideAt (.inr (.inl rfl))
    exact (hword hoff).write_read_cell m (by simp [hwrite]) (bankClass_eq_cell (by decide) hcell)
      (bankWriteWord_of_override hwrite _) (cellValue_setCell_same _ _ _ _ hcell)
  · have hwrite : bankClass s r.slave .tmr 0x0C .write = .override := bankClass_of_overrideAt rfl
    exact (hword hoff).write_read_cell m (by simp [hwrite]) (bankClass_eq_cell (by decide) hcell)
      (bankWriteWord_of_override hwrite _) (cellValue_writeTmrStat hcell _)

end Sys2Proof.Proofs
end

section
/-! The widths of a register bank that are not 32 bits: 8- and 16-bit and misaligned accesses fault, and a 64-bit access is two
words, the low word first (41_register_bank.md R116, R119). -/

namespace Sys2Proof.Proofs

open Sys2Proof.Machine Sys2Proof.Safety Sys2Proof.Laws

variable {s t : State} {i : Instr} {r : Range} {sl m : Ident} {k : SlaveKind} {addr : DWord} {u : Bool} {off len : Nat}
  {dir : Dir}

/-! ### 8 and 16 bits -/

/-- `SUBWORD` is `Unsupported` for every bank (41_register_bank.md R119). -/
theorem bankSupports_subword (h : len = 1 ∨ len = 2) (s : State) (sl : Ident) (k : SlaveKind) (off : Nat) (dir : Dir) :
    bankSupports s sl k off len dir = false := by
  rcases h with rfl | rfl <;> rfl

theorem supports_bank_subword (hk : kindOf s.cfg sl = some k) (hb : isBankKind k = true) (h : len = 1 ∨ len = 2)
    (m : Ident) (off : Nat) (dir : Dir) : supports s sl m off len dir = false := by
  refine Bool.eq_false_iff.2 fun hsup => ?_
  cases (bankSupports_subword h s sl k off dir).symm.trans (bankSupports_of_supports hk hb hsup)

/-- No bank serves a misaligned access: it serves no byte of one (40_slave_core.md R92). -/
theorem canAccess_bank_misaligned (hk : kindOf s.cfg sl = some k) (hb : isBankKind k = true) (hlen : 0 < len)
    (h : off % len ≠ 0) (m : Ident) (dir : Dir) : canAccess s sl m off len dir = false := by
  refine Bool.eq_false_iff.2 fun hcan => ?_
  have hbyte := (canAccess_of_misaligned h).1 hcan 0 hlen
  rw [canAccess_byte, supports_bank_subword hk hb (.inl rfl)] at hbyte
  cases hbyte

/-- Settles O32: no bank serves the access, so one of the tests of a mapped address fails. -/
theorem subwordBankAccessFaults : Obligations.SubwordBankAccessFaults := by
  intro i s a r k hi hp hm hk hb hbad
  have hcan : canAccess s r.slave a.master (localOffset r a.addr) a.len a.dir = false := by
    by_cases halign : localOffset r a.addr % a.len = 0
    · have hsub : a.len = 1 ∨ a.len = 2 := by
        rcases hbad with h | h | ⟨-, h⟩
        · exact .inl h
        · exact .inr h
        · exact absurd halign h
      rw [canAccess_of_aligned halign, supports_bank_subword hk hb hsub]
    · obtain ⟨hpos, -⟩ := accessLen_bounds (isAccessLen_of_accessOf hi)
      exact canAccess_bank_misaligned hk hb hpos halign _ _
  refine faultsWith_of_routeAccess hi ?_
  rw [routeAccess_of_mapped _ _ _ _ hp hm, if_neg]
  rintro ⟨-, -, htrue⟩
  cases hcan.symm.trans htrue

/-! ### 64 bits -/

theorem whitelist64_iff (hb : isBankKind k = true) :
    (∀ wl, whitelist64 k = some wl → off ∈ wl) ↔ admits64 k off := by
  cases k with
  | sec | pri | tmr => simp [whitelist64, admits64]
  | bank b => cases hwl : b.wl64 <;> simp [whitelist64, admits64, hwl]
  | ram | other => cases hb

/-- A bank serves 64 bits where its whitelist admits the offset and both words decode (41_register_bank.md R116). -/
theorem bankSupports_dword (hb : isBankKind k = true) :
    bankSupports s sl k off 8 dir = true ↔ admits64 k off ∧ bankClass s sl k off dir ≠ .undecoded ∧
      bankClass s sl k (off + 4) dir ≠ .undecoded := by
  rw [← whitelist64_iff hb, ← bankDecodes_iff, ← bankDecodes_iff]
  simp only [bankSupports, bankSupports64]
  cases whitelist64 k <;> simp [and_assoc]

/-- Settles O33: the capability of the bank decides, and a served access is its two words. -/
theorem bankDoubleWords : Obligations.BankDoubleWords := by
  intro i s m addr u dir r k off hi hin hk hb hoff halign
  subst hoff
  have hacc : BankAccess s ⟨m, addr, 8, u, dir⟩ r k := ⟨hin, admitted_of_plainSlave hk m _ _, hb, halign⟩
  refine ⟨fun o _ => classTable s r.slave k o dir, fun hlegal => ⟨?read, ?write⟩, fun hillegal => ?fault⟩
  case read =>
    rintro rfl
    exact hacc.exec_read hi rfl ((bankSupports_dword hb).2 hlegal)
  case write =>
    rintro rfl
    exact hacc.exec_write hi rfl ((bankSupports_dword hb).2 hlegal)
  case fault => exact hacc.faultsWith hi (Bool.eq_false_iff.2 fun hsup => hillegal ((bankSupports_dword hb).1 hsup))

end Sys2Proof.Proofs
end

section
/-! `ADD_REGISTER` by its tests (41_register_bank.md R110). -/

namespace Sys2Proof.Proofs

open Sys2Proof.Machine Sys2Proof.Safety Sys2Proof.Laws

variable {s : State} {i : Instr} {sl : Ident} {off : Word}

/-- A raised configuration error changes the phase only (60_exceptions.md R233). -/
theorem failsConfig_of_raise {kind : ConfigErrorKind} {code : Byte} (h : exec i s = proceed (raiseConfigError kind s))
    (hcode : statusCode (.configError kind) = code) : FailsConfig i s code :=
  ⟨kind, hcode, h⟩

theorem refusedWith_of_refuse {why : RefuseReason} (h : exec i s = proceed (refuse why s)) : RefusedWith i s why :=
  ⟨refuse why s, h, rfl, rfl⟩

theorem hasCell_word : hasCell s sl off.toNat = (mapGet s.bank (cellKey sl off.toNat)).isSome := by
  simp only [hasCell, off.isLt, decide_true, Bool.true_and]

/-- The tests of a bank's register in `CONFIG`, in their order; both failures are causes of `CFGERR_OTHER`. -/
theorem addRegister_of_bank (hp : s.phase = .config) (hk : ∃ b, kindOf s.cfg sl = some (.bank b)) (off rv : Word) :
    addRegister sl off rv s =
      if off.toNat % 4 ≠ 0 then raiseConfigError (.misalignedOffset sl off) s
      else if (mapGet s.bank (cellKey sl off.toNat)).isSome then raiseConfigError (.duplicateOffset sl off) s
      else respond .none (s.setBank (mapSet s.bank (cellKey sl off.toNat) (newCell "" rv))) := by
  simp [addRegister, hp, isBank_iff.2 hk, isAligned, hasCell_word]

theorem addRegister_of_not_config (hp : s.phase ≠ .config) (off rv : Word) :
    addRegister sl off rv s = refuse .phase s := if_pos hp

theorem addRegister_of_not_bank (hp : s.phase = .config) (hk : ¬ ∃ b, kindOf s.cfg sl = some (.bank b)) (off rv : Word) :
    addRegister sl off rv s = raiseConfigError (.notBank sl) s := by
  simp [addRegister, hp, mt isBank_iff.1 hk]

/-- Settles O52: each test in its order, and the new cell past them. -/
theorem addRegisterOutcome : Obligations.AddRegisterOutcome := by
  intro s sl off rv
  refine ⟨fun hp => ?phase, fun hp hk => ?notBank, fun hp hk hbad => ?offset, fun hp hk halign hfree => ?added⟩
  case phase => exact refusedWith_of_refuse (congrArg proceed (addRegister_of_not_config hp off rv))
  case notBank =>
    exact failsConfig_of_raise (congrArg proceed (addRegister_of_not_bank hp (not_exists.2 hk) off rv)) rfl
  case offset =>
    have hadd := addRegister_of_bank hp hk off rv
    by_cases halign : off.toNat % 4 = 0
    · rw [if_neg (not_not.2 halign), if_pos (hbad.resolve_left (not_not.2 halign))] at hadd
      exact failsConfig_of_raise (congrArg proceed hadd) rfl
    · rw [if_pos halign] at hadd
      exact failsConfig_of_raise (congrArg proceed hadd) rfl
  case added =>
    have hadd := addRegister_of_bank hp hk off rv
    rw [if_neg (not_not.2 halign), if_neg (by simp [hfree])] at hadd
    exact ⟨_, "", congrArg proceed hadd, rfl, mapGet_mapSet_same _ _ _, fun key hkey => mapGet_mapSet_other _ _ hkey, rfl⟩

end Sys2Proof.Proofs
end

section
/-! Decode and the local offset (42_bus.md R133), and the access whose first byte lies in no range (42_bus.md R134). -/

namespace Sys2Proof.Proofs

open Sys2Proof.Machine Sys2Proof.Safety Sys2Proof.Laws

variable {s : State} {addr : DWord} {r : Range}

theorem decodeAddr_eq_none {ranges : List Range} :
    decodeAddr ranges addr = none ↔ ∀ q ∈ ranges, ¬ (q.low ≤ addr ∧ addr < q.high) := by
  simp only [decodeAddr, List.find?_eq_none, rangeContains, Bool.and_eq_true, decide_eq_true_eq]

/-- With the ranges disjoint, the one range that contains the address is the one decode finds (10_state.md R14). -/
theorem mapped_iff (h : RangesDisjoint s) : Mapped s addr r ↔ r ∈ s.ranges ∧ r.low ≤ addr ∧ addr < r.high :=
  ⟨mem_of_mapped, fun ⟨hmem, hlo, hhi⟩ => mapped_of_mem h hmem hlo hhi⟩

/-- The offset, a difference of natural numbers in the model, is the 64-bit difference: it does not wrap. -/
theorem localOffset_eq_sub (hlo : r.low ≤ addr) : localOffset r addr = (addr - r.low).toNat :=
  (BitVec.toNat_sub_of_le hlo).symm

theorem localOffset_lt_rangeSize (hlo : r.low ≤ addr) (hhi : addr < r.high) : localOffset r addr < rangeSize r := by
  rw [BitVec.le_def] at hlo
  rw [BitVec.lt_def] at hhi
  unfold localOffset rangeSize
  omega

/-- Settles O9: a hit is membership and containment, and bounds the offset on both sides. -/
theorem decodeFindsRange : Obligations.DecodeFindsRange := by
  intro s addr r hdisj
  refine ⟨mapped_iff hdisj, decodeAddr_eq_none, fun hm => ?_⟩
  obtain ⟨-, hlo, hhi⟩ := mem_of_mapped hm
  exact ⟨localOffset_eq_sub hlo, localOffset_lt_rangeSize hlo hhi⟩

/-- Settles O10: decode is the first test past the phase. -/
theorem unmappedAccessFaults : Obligations.UnmappedAccessFaults := by
  intro i s a hi hp hno
  exact faultsWith_of_routeAccess hi (routeAccess_of_unmapped _ _ _ _ hp (decodeAddr_eq_none.2 hno))

end Sys2Proof.Proofs
end

section
/-! The probes: what they answer, and that the answer is the success of the access (42_bus.md R158, R159). -/

namespace Sys2Proof.Proofs

open Sys2Proof.Machine Sys2Proof.Safety Sys2Proof.Laws

variable {s : State} {i : Instr} {a : Access} {sl m : Ident} {k : SlaveKind} {b : BankCfg} {addr : DWord} {off len : Nat}
  {u : Bool} {dir dir' : Dir}

/-! ### The answer -/

/-- The probe's three conditions (42_bus.md R158): mapped, inside the range, served by the slave. -/
theorem probeAnswer_eq_true (hlen : isAccessLen len = true) :
    probeAnswer s m addr len dir = true ↔ ∃ r, Mapped s addr r ∧ localOffset r addr + len ≤ rangeSize r ∧
      canAccess s r.slave m (localOffset r addr) len dir = true := by
  simp only [probeAnswer, Mapped]
  cases decodeAddr s.ranges addr with
  | none => simp
  | some r => simp [hlen, endsInside]

/-! ### The access -/

/-- An access ends with status OK exactly when every test of 42_bus.md R140 is passed. -/
theorem exec_ok_iff_served (hi : accessOf i = some a) :
    (∃ t d, exec i s = .next t ∧ t.response = some (.ok d)) ↔ ∃ r, Served s a r := by
  constructor
  · rintro ⟨t, d, hexec, hok⟩
    cases hroute : routeAccess s a.master a.addr a.len a.unaligned a.dir with
    | refusedPhase =>
      cases hexec.symm.trans (exec_of_failed (routeAccess_refused.1 hroute) i)
      cases hok
    | fault kind =>
      cases hexec.symm.trans (faultsWith_of_routeAccess hi hroute)
      cases hok
    | hit r =>
      obtain ⟨hin, halign, hcan⟩ := routeAccess_hit.1 hroute
      refine ⟨r, hin, ?_, hcan⟩
      cases hu : a.unaligned with
      | true => exact .inl rfl
      | false => exact .inr (halign hu)
  · rintro ⟨r, hserved⟩
    cases hd : a.dir with
    | read => exact ⟨_, _, hserved.exec_read hi hd, rfl⟩
    | write => exact ⟨_, _, hserved.exec_write hi hd, rfl⟩

/-- The unaligned variant succeeds exactly when the probe answers true, the aligned one when also the offset is aligned
(42_bus.md R158). -/
theorem exec_ok_iff_probeAnswer (hlen : isAccessLen len = true) (hp : s.phase ≠ .failed)
    (hi : accessOf i = some ⟨m, addr, len, u, dir⟩) :
    (∃ t d, exec i s = .next t ∧ t.response = some (.ok d)) ↔
      probeAnswer s m addr len dir = true ∧ (u = true ∨ ∀ r, Mapped s addr r → localOffset r addr % len = 0) := by
  rw [exec_ok_iff_served hi, probeAnswer_eq_true hlen]
  constructor
  · rintro ⟨r, ⟨-, hm, hend⟩, halign, hcan⟩
    refine ⟨⟨r, hm, hend, hcan⟩, halign.imp_right fun h q hq => ?_⟩
    cases Option.some.inj (hm.symm.trans hq)
    exact h
  · rintro ⟨⟨r, hm, hend, hcan⟩, halign⟩
    exact ⟨r, ⟨hp, hm, hend⟩, halign.imp_right fun h => h r hm, hcan⟩

/-- Settles O23: the probe at the Bus, and the access of its direction. -/
theorem canreadAnswers : Obligations.CanreadAnswers := fun s m addr len hlen =>
  ⟨fun hp => refusedWith_of_refuse (exec_of_failed hp _), fun hp =>
    ⟨probeAnswer s m addr len .read, congrArg proceed (busProbe_of_not_failed hp m addr len .read),
      probeAnswer_eq_true hlen, fun _ _ => exec_ok_iff_probeAnswer hlen hp⟩⟩

/-! ### Reads and writes of the same capability -/

/-- An offset decodes unless no row of the table of 41_register_bank.md R111 applies. -/
theorem bankDecodes_iff_row :
    bankDecodes s sl k off dir = true ↔
      (off < 2 ^ 32 ∧ overrideAt k dir off) ∨ cellAt s sl off ∨ reservedAt k off ∨ hasDefault k := by
  rw [bankDecodes_iff, ne_eq, (classTable s sl k off dir).undecoded]
  tauto

/-- What the agreement of the two probes takes of a state (42_bus.md R159; log 21). -/
structure TwoSided (s : State) : Prop where
  complete : BanksComplete s
  banks : s.cfg.banksOk = true
  added : RegistersAdded s

/-- A generic bank of the board is two-sided. -/
theorem twoSided_of_banksOk {c : Cfg} (h : c.banksOk = true)
    (hk : kindOf c sl = some (.bank b)) : b.twoSided = true := by
  have hmem := mem_slaves_of_kindOf hk
  simp only [List.mem_cons, Prod.mk.injEq, reduceCtorEq, and_false, false_or] at hmem
  exact List.all_eq_true.1 h _ hmem

/-- An override of a two-sided bank has one in every direction, or its offset decodes without one. -/
theorem overrideAt_of_twoSided (h : b.twoSided = true) (hovr : overrideAt (.bank b) dir off) :
    overrideAt (.bank b) dir' off ∨ (∃ g ∈ b.regs, g.offset.toNat = off) ∨ off ∈ b.reserved ∨ b.dflt ≠ .fault := by
  obtain ⟨o, ho, rfl⟩ : ∃ o ∈ b.rdOvr ++ b.wrOvr, o.toNat = off := by
    cases dir with
    | read =>
      obtain ⟨o, ho, rfl⟩ := hovr
      exact ⟨o, List.mem_append_left _ ho, rfl⟩
    | write =>
      obtain ⟨o, ho, rfl⟩ := hovr
      exact ⟨o, List.mem_append_right _ ho, rfl⟩
  have hrow := List.all_eq_true.1 h o ho
  simp only [Bool.or_eq_true, Bool.and_eq_true, decide_eq_true_eq, List.mem_map] at hrow
  rcases hrow with ((⟨hrd, hwr⟩ | ⟨g, hg, rfl⟩) | hres) | hdflt
  · left
    cases dir'
    · exact ⟨o, hrd, rfl⟩
    · exact ⟨o, hwr, rfl⟩
  · exact .inr (.inl ⟨g, hg, rfl⟩)
  · exact .inr (.inr (.inl hres))
  · exact .inr (.inr (.inr hdflt))

/-- An offset of SEC, PRI or TMR with an override in one direction only is a register with a cell; of a generic bank the
board says so (42_bus.md R159). -/
theorem decoded_of_overrideAt (h : TwoSided s) (hk : kindOf s.cfg sl = some k) (hovr : overrideAt k dir off) :
    overrideAt k dir' off ∨ cellAt s sl off ∨ reservedAt k off ∨ hasDefault k := by
  have hcell {p : Nat × RegCell} (hp : p ∈ resetCells k) : cellAt s sl p.1 :=
    hasCell_iff_cellAt.1 (h.complete.fixed_cells sl k hk p hp)
  cases k with
  | bank b =>
    rcases overrideAt_of_twoSided (twoSided_of_banksOk h.banks hk) (dir' := dir') hovr with
      hovr' | ⟨g, hg, rfl⟩ | hres | hdflt
    · exact .inl hovr'
    · exact .inr (.inl (h.added sl b hk g hg))
    · exact .inr (.inr (.inl hres))
    · exact .inr (.inr (.inr ⟨b, rfl, hdflt⟩))
  | sec | pri =>
    by_cases hoff : off = 0x04
    · subst hoff
      exact .inr (.inl (hcell List.mem_cons_self))
    · left
      cases dir <;> cases dir' <;> simp only [overrideAt] at hovr ⊢ <;> omega
  | tmr =>
    right; left
    cases dir with
    | read =>
      obtain rfl : off = 0x14 := hovr
      exact hcell (p := (0x14, newCell "TMR_FLAG" 0)) (by decide)
    | write =>
      obtain rfl : off = 0x0C := hovr
      exact hcell (p := (0x0C, newCell "TMR_STAT" 0)) (by decide)
  | ram | other => cases hovr

theorem bankDecodes_of_bankDecodes (h : TwoSided s) (hk : kindOf s.cfg sl = some k)
    (hdec : bankDecodes s sl k off dir = true) : bankDecodes s sl k off dir' = true := by
  rw [bankDecodes_iff_row] at hdec ⊢
  rcases hdec with ⟨hlt, hovr⟩ | hrow
  · exact (decoded_of_overrideAt h hk hovr).imp_left fun hovr' => ⟨hlt, hovr'⟩
  · exact .inr hrow

theorem bankDecodes_dir_irrel (h : TwoSided s) (hk : kindOf s.cfg sl = some k) (off : Nat) (dir dir' : Dir) :
    bankDecodes s sl k off dir = bankDecodes s sl k off dir' :=
  Bool.eq_iff_iff.2 ⟨bankDecodes_of_bankDecodes h hk, bankDecodes_of_bankDecodes h hk⟩

theorem kindSupports_dir_irrel (h : TwoSided s) (hk : kindOf s.cfg sl = some k) (hother : k ≠ .other)
    (m : Ident) (off len : Nat) (dir dir' : Dir) :
    kindSupports s sl k m off len dir = kindSupports s sl k m off len dir' := by
  cases k with
  | ram => rfl
  | sec | pri | tmr | bank =>
    simp only [kindSupports, bankSupports, bankSupports64, bankDecodes_dir_irrel h hk _ dir dir']
  | other => exact absurd rfl hother

/-- A `SUPPORTS_M` does not see the direction (log 6). -/
theorem supports_dir_irrel (h : TwoSided s) (hk : kindOf s.cfg sl = some k) (hother : k ≠ .other)
    (m : Ident) (off len : Nat) (dir dir' : Dir) :
    supports s sl m off len dir = supports s sl m off len dir' := by
  simp only [supports, hk, kindSupports_dir_irrel h hk hother m off len dir dir']

theorem probeAnswer_dir_irrel (h : TwoSided s)
    (hkind : ∀ r, Mapped s addr r → ∃ k, kindOf s.cfg r.slave = some k ∧ k ≠ .other) (m : Ident) (len : Nat)
    (dir dir' : Dir) : probeAnswer s m addr len dir = probeAnswer s m addr len dir' := by
  cases hd : decodeAddr s.ranges addr with
  | none => simp only [probeAnswer, hd]
  | some r =>
    obtain ⟨k, hk, hother⟩ := hkind r hd
    simp only [probeAnswer, hd, canAccess, supports_dir_irrel h hk hother _ _ _ dir dir']

/-- Settles O24: as `CANREAD`, with an answer that does not depend on the direction. -/
theorem canwriteAnswers : Obligations.CanwriteAnswers := by
  intro s m addr len hlen
  refine ⟨fun hp => refusedWith_of_refuse (exec_of_failed hp _), fun hp =>
    ⟨probeAnswer s m addr len .write, congrArg proceed (busProbe_of_not_failed hp m addr len .write),
      probeAnswer_eq_true hlen, fun _ _ => exec_ok_iff_probeAnswer hlen hp, fun hcomplete hbanks hadded hkind => ?_⟩⟩
  rw [probeAnswer_dir_irrel ⟨hcomplete, hbanks, hadded⟩ hkind m len .write .read]
  exact congrArg proceed (busProbe_of_not_failed hp m addr len .read)

end Sys2Proof.Proofs
end

section
/-! `ADD_SLAVE` by its tests (42_bus.md R130, R131). -/

namespace Sys2Proof.Proofs

open Sys2Proof.Machine Sys2Proof.Safety Sys2Proof.Laws

variable {s : State} {sl : Ident}

/-- Two half-open ranges overlap where each begins below the end of the other (42_bus.md R131). -/
theorem any_rangesOverlap_iff {new : Range} {ranges : List Range} :
    ranges.any (rangesOverlap new) = true ↔ ∃ r ∈ ranges, new.low < r.high ∧ r.low < new.high := by
  simp only [List.any_eq_true, rangesOverlap, Bool.and_eq_true, decide_eq_true_eq]

theorem addSlave_of_not_config (hp : s.phase ≠ .config) (low high : DWord) :
    addSlave sl low high s = refuse .phase s := if_pos hp

section
variable (hp : s.phase = .config)
include hp

theorem addSlave_of_unknown (hk : kindOf s.cfg sl = none) (low high : DWord) :
    addSlave sl low high s = raiseConfigError (.unknownSlave sl) s := by
  simp only [addSlave, hp, hk, ne_eq, not_true_eq_false, if_false, if_true]

/-- The tests of a range for a slave of the board, in their order. -/
theorem addSlave_of_known (hk : kindOf s.cfg sl ≠ none) (low high : DWord) :
    addSlave sl low high s =
      if ¬ low < high then raiseConfigError (.badRange low high) s
      else if s.ranges.any (rangesOverlap ⟨low, high, sl⟩) then
        raiseConfigError (.overlap low high (s.ranges.filter (rangesOverlap ⟨low, high, sl⟩))) s
      else respond .none (s.setRanges (s.ranges ++ [⟨low, high, sl⟩])) := by
  simp only [addSlave, hp, hk, ne_eq, not_true_eq_false, if_false]

end

/-- Settles O51: each test in its order, and the range appended past them. -/
theorem addSlaveOutcome : Obligations.AddSlaveOutcome := by
  intro s sl low high
  refine ⟨fun hp => ?phase, fun hp hk => ?unknown, fun hp hk hlt => ?badRange, fun hp hk hlt hov => ?overlap,
    fun hp hk hlt hov => ?appended⟩
  case phase => exact refusedWith_of_refuse (congrArg proceed (addSlave_of_not_config hp low high))
  case unknown => exact failsConfig_of_raise (congrArg proceed (addSlave_of_unknown hp hk low high)) rfl
  case badRange =>
    have hadd := addSlave_of_known hp hk low high
    rw [if_pos hlt] at hadd
    exact failsConfig_of_raise (congrArg proceed hadd) rfl
  case overlap =>
    have hadd := addSlave_of_known hp hk low high
    rw [if_neg (not_not.2 hlt), if_pos (any_rangesOverlap_iff.2 hov)] at hadd
    exact failsConfig_of_raise (congrArg proceed hadd) rfl
  case appended =>
    have hadd := addSlave_of_known hp hk low high
    rw [if_neg (not_not.2 hlt), if_neg (mt any_rangesOverlap_iff.1 fun ⟨r, hr, hr'⟩ => hov r hr hr')] at hadd
    exact congrArg proceed hadd

end Sys2Proof.Proofs
end

section
/-! `START_ALL` and `HALT_ALL` by the phase (42_bus.md R162, R163). -/

namespace Sys2Proof.Proofs

open Sys2Proof.Machine Sys2Proof.Safety Sys2Proof.Laws

variable {s : State}

theorem startAll_of_config (hp : s.phase = .config) :
    startAll s = respond .none ((startDevices s).setPhase .run) := by
  simp only [startAll, hp]

theorem startAll_of_run (hp : s.phase = .run) : startAll s = respond .none s := by
  simp only [startAll, hp]

theorem startAll_of_halted (hp : s.phase = .halted) : startAll s = refuse .phase s := by
  simp only [startAll, hp]

theorem haltAll_of_run (hp : s.phase = .run) :
    haltAll s =
      respond .none (((s.setShouldHalt true).setRun (s.run.map fun p => (p.1, haltRun p.2))).setPhase .halted) := by
  simp only [haltAll, hp]

theorem haltAll_of_halted (hp : s.phase = .halted) : haltAll s = respond .none s := by
  simp only [haltAll, hp]

theorem haltAll_of_config (hp : s.phase = .config) : haltAll s = refuse .phase s := by
  simp only [haltAll, hp]

/-- Settles O54: the four phases of `START_ALL`. -/
theorem startAllOutcome : Obligations.StartAllOutcome := by
  intro s
  refine ⟨fun hp => ?config, fun hp => ?run, fun hp => ?refused⟩
  case config =>
    exact ⟨_, congrArg proceed (startAll_of_config hp), rfl, rfl, runState_startDevices s, rfl⟩
  case run => exact congrArg proceed (startAll_of_run hp)
  case refused =>
    rcases hp with hp | hp
    · exact refusedWith_of_refuse (congrArg proceed (startAll_of_halted hp))
    · exact refusedWith_of_refuse (exec_of_failed hp .startAll)

/-- Settles O55: the four phases of `HALT_ALL`. -/
theorem haltAllOutcome : Obligations.HaltAllOutcome := by
  intro s
  refine ⟨fun hp => ?run, fun hp => ?halted, fun hp => ?refused⟩
  case run =>
    exact ⟨_, congrArg proceed (haltAll_of_run hp), rfl, rfl, rfl, runState_map_haltRun s, rfl⟩
  case halted => exact congrArg proceed (haltAll_of_halted hp)
  case refused =>
    rcases hp with hp | hp
    · exact refusedWith_of_refuse (congrArg proceed (haltAll_of_config hp))
    · exact refusedWith_of_refuse (exec_of_failed hp .haltAll)

end Sys2Proof.Proofs
end

section
/-! The interrupt signals as sets of lines: the secondary's aggregate, the two outputs, and the auxiliary winners
(10_state.md R20; 43_interrupt_fabric.md R176, R180 to R184). -/

namespace Sys2Proof.Proofs

open Sys2Proof.Machine Sys2Proof.Safety Sys2Proof.Laws

variable {s t : State} {j : Nat}

/-- A line vector is not zero where one of its lines is set. -/
theorem word_ne_zero_iff {v : Word} : v ≠ 0 ↔ ∃ j, v.getLsbD j = true := by
  refine ⟨fun hne => ?_, ?_⟩
  · by_contra hno
    exact hne (BitVec.eq_of_getLsbD_eq fun j _ => by simpa using not_exists.1 hno j)
  · rintro ⟨j, hj⟩ rfl
    simp at hj

/-! ### The aggregate of the secondary -/

theorem getLsbD_secMasked (s : State) (j : Nat) :
    (secMasked s).getLsbD j =
      (decide (j < s.cfg.nSec) && s.sec.raw.getLsbD j && (enableOf s .sec).getLsbD j) := by
  rw [secMasked, BitVec.getLsbD_and, getLsbD_rawOf]
  rfl

theorem secAggr_iff :
    secAggr s = true ↔ ∃ j < s.cfg.nSec, s.sec.raw.getLsbD j = true ∧ (enableOf s .sec).getLsbD j = true := by
  simp only [secAggr, decide_eq_true_eq, word_ne_zero_iff, getLsbD_secMasked, Bool.and_eq_true, and_assoc]

/-- Settles O37: the aggregate bit by bit; a line that nothing drives is set by no operation. -/
theorem secondaryAggregate : Obligations.SecondaryAggregate := by
  intro s _
  refine ⟨secAggr_iff, fun hwired j hfree => ?unconnected, fun i t hexec j hfree hclear => ?kept⟩
  case unconnected =>
    refine Bool.eq_false_iff.2 fun hraw => ?_
    obtain ⟨d, hd⟩ := hwired.raw_driven .sec j hraw
    obtain ⟨-, -, hdrv⟩ := drives_iff.1 hd
    cases hfree.symm.trans hdrv
  case kept =>
    by_contra hset
    obtain ⟨d, hd, -⟩ := rawChangesOnlyByDriver i s t .sec j hexec fun hraw => hset (hraw.trans hclear)
    obtain ⟨-, -, hdrv⟩ := drives_iff.1 hd
    cases hfree.symm.trans hdrv

/-! ### The outputs -/

/-- A primary line is masked-asserted where it exists, is asserted (the cascade line by the secondary's aggregate) and
is enabled (43_interrupt_fabric.md R177). -/
theorem getLsbD_priMasked_iff :
    (priMasked s).getLsbD j = true ↔ j < s.cfg.nPri ∧
      (if s.cfg.cascade = some j then secAggr s = true else s.pri.raw.getLsbD j = true) ∧
      (enableOf s .pri).getLsbD j = true := by
  rw [priMasked, BitVec.getLsbD_and, Bool.and_eq_true]
  by_cases hj : j < 32
  · rw [getLsbD_priRawEff s hj]
    split <;> simp [and_assoc]
  · have hno : ∀ v : Word, ¬ v.getLsbD j = true := fun v h => hj (BitVec.lt_of_getLsbD h)
    simp [hno]

/-- On a masked-asserted line the view `FIQSEL` shows the line's class (10_state.md R19). -/
theorem getLsbD_fiqselView_of_masked (hm : (priMasked s).getLsbD j = true) :
    (fiqselView s.cfg).getLsbD j = s.cfg.fiqsel.getLsbD j := by
  obtain ⟨hj, -⟩ := getLsbD_priMasked_iff.1 hm
  rw [getLsbD_fiqselView, decide_eq_true hj, Bool.true_and]

/-- `irq_set`: the masked-asserted lines of class IRQ. -/
theorem mem_irqSet : j ∈ irqSet s ↔ (priMasked s).getLsbD j = true ∧ s.cfg.fiqsel.getLsbD j = false := by
  simp only [irqSet, List.mem_filter, List.mem_range, Bool.and_eq_true, Bool.not_eq_true']
  refine ⟨fun ⟨_, hm, hsel⟩ => ⟨hm, getLsbD_fiqselView_of_masked hm ▸ hsel⟩, fun ⟨hm, hsel⟩ => ?_⟩
  obtain ⟨hj, -⟩ := getLsbD_priMasked_iff.1 hm
  exact ⟨hj, hm, (getLsbD_fiqselView_of_masked hm).trans hsel⟩

/-- `fiq_set`: the masked-asserted lines of class FIQ. -/
theorem mem_fiqSet : j ∈ fiqSet s ↔ (priMasked s).getLsbD j = true ∧ s.cfg.fiqsel.getLsbD j = true := by
  simp only [fiqSet, List.mem_filter, List.mem_range, Bool.and_eq_true]
  refine ⟨fun ⟨_, hm, hsel⟩ => ⟨hm, getLsbD_fiqselView_of_masked hm ▸ hsel⟩, fun ⟨hm, hsel⟩ => ?_⟩
  obtain ⟨hj, -⟩ := getLsbD_priMasked_iff.1 hm
  exact ⟨hj, hm, (getLsbD_fiqselView_of_masked hm).trans hsel⟩

/-- `irq` is true where `irq_set` has a member (43_interrupt_fabric.md R180, R184). -/
theorem irq_iff : irq s = true ↔ ∃ j, j ∈ irqSet s := by
  simp only [irq, decide_eq_true_eq, word_ne_zero_iff, mem_irqSet]
  refine exists_congr fun j => ?_
  rw [BitVec.getLsbD_and, Bool.and_eq_true]
  refine and_congr_right fun hm => ?_
  rw [BitVec.getLsbD_not, getLsbD_fiqselView_of_masked hm]
  simp [-BitVec.getLsbD_eq_getElem, BitVec.lt_of_getLsbD hm]

/-- `fiq` is true where `fiq_set` has a member (43_interrupt_fabric.md R181, R184). -/
theorem fiq_iff : fiq s = true ↔ ∃ j, j ∈ fiqSet s := by
  simp only [fiq, decide_eq_true_eq, word_ne_zero_iff, mem_fiqSet]
  refine exists_congr fun j => ?_
  rw [BitVec.getLsbD_and, Bool.and_eq_true]
  exact and_congr_right fun hm => by rw [getLsbD_fiqselView_of_masked hm]

/-- The masked-asserted lines with a property, in the terms of the stored bits. -/
theorem exists_masked_iff (P : Nat → Prop) :
    (∃ j, (priMasked s).getLsbD j = true ∧ P j) ↔ ∃ j < s.cfg.nPri, (enableOf s .pri).getLsbD j = true ∧ P j ∧
      if s.cfg.cascade = some j then
        ∃ n < s.cfg.nSec, s.sec.raw.getLsbD n = true ∧ (enableOf s .sec).getLsbD n = true
      else s.pri.raw.getLsbD j = true := by
  simp only [getLsbD_priMasked_iff, secAggr_iff]
  exact exists_congr fun j => ⟨fun ⟨⟨hj, hraw, hen⟩, hP⟩ => ⟨hj, hen, hP, hraw⟩,
    fun ⟨hj, hen, hP, hraw⟩ => ⟨⟨hj, hraw, hen⟩, hP⟩⟩

theorem answers_irqQ (hp : s.phase ≠ .failed) : Answers .irqQ s (.flag (irq s)) :=
  congrArg proceed (queryLevel_of_not_failed hp irq)

theorem answers_fiqQ (hp : s.phase ≠ .failed) : Answers .fiqQ s (.flag (fiq s)) :=
  congrArg proceed (queryLevel_of_not_failed hp fiq)

/-- Settles O36: each query answers its output, which is true where its set has a member. -/
theorem queriesReportOutputs : Obligations.QueriesReportOutputs := by
  intro s _
  refine ⟨fun hp => ⟨refusedWith_of_refuse (exec_of_failed hp _), refusedWith_of_refuse (exec_of_failed hp _)⟩,
    fun hp => ⟨irq s, fiq s, answers_irqQ hp, answers_fiqQ hp, ?irq, ?fiq⟩⟩
  case irq =>
    simp only [irq_iff, mem_irqSet]
    exact exists_masked_iff _
  case fiq =>
    simp only [fiq_iff, mem_fiqSet]
    exact exists_masked_iff _

/-! ### The winners -/

/-- Whatever the policy, a choice exists exactly from a set that is not empty. -/
theorem isSome_prioChoice (p : PrioPolicy) (set : List Nat) : (prioChoice p set).isSome = true ↔ ∃ j, j ∈ set := by
  have hhead : set.head?.isSome = true ↔ ∃ j, j ∈ set := by cases set <;> simp
  cases p with
  | smallest => exact hhead
  | unspecified =>
    simp only [prioChoice]
    split
    · rename_i hmem
      exact iff_of_true rfl ⟨_, hmem⟩
    · exact hhead

/-- Whatever the policy, its choice is a member (43_interrupt_fabric.md R184). -/
theorem mem_of_prioChoice {p : PrioPolicy} {set : List Nat} (h : prioChoice p set = some j) : j ∈ set := by
  cases p with
  | smallest => exact List.mem_of_head? h
  | unspecified =>
    simp only [prioChoice] at h
    split at h
    · cases h
      assumption
    · exact List.mem_of_head? h

/-- The default policy's choice from a rising list is its smallest member. -/
theorem le_of_prioChoice_smallest {set : List Nat} (hrise : set.Pairwise (· < ·))
    (h : prioChoice .smallest set = some j) : ∀ n ∈ set, j ≤ n := by
  cases set with
  | nil => cases h
  | cons k rest =>
    cases h
    rw [List.pairwise_cons] at hrise
    simpa using fun n hn => (hrise.1 n hn).le

theorem irqSet_rising (s : State) : (irqSet s).Pairwise (· < ·) := List.pairwise_lt_range.filter _

theorem fiqSet_rising (s : State) : (fiqSet s).Pairwise (· < ·) := List.pairwise_lt_range.filter _

/-- The policy's choice from a set of masked-asserted lines of one class (43_interrupt_fabric.md R184). -/
theorem winner_of_prioChoice {set : List Nat} {P : Nat → Prop}
    (hset : ∀ j, j ∈ set ↔ (priMasked s).getLsbD j = true ∧ P j) (hrise : set.Pairwise (· < ·))
    (hwin : prioChoice s.cfg.prio set = some j) :
    j < s.cfg.nPri ∧ (priMasked s).getLsbD j = true ∧ P j ∧
      (s.cfg.prio = .smallest → ∀ n < j, ¬ ((priMasked s).getLsbD n = true ∧ P n)) := by
  obtain ⟨hm, hP⟩ := (hset j).1 (mem_of_prioChoice hwin)
  obtain ⟨hj, -⟩ := getLsbD_priMasked_iff.1 hm
  refine ⟨hj, hm, hP, fun hprio n hn hmem => ?_⟩
  rw [hprio] at hwin
  exact absurd (le_of_prioChoice_smallest hrise hwin n ((hset n).2 hmem)) (not_le.2 hn)

/-- Settles O41: the winners are the policy's choices from the two sets. -/
theorem winnersAgreeWithOutputs : Obligations.WinnersAgreeWithOutputs := fun s =>
  ⟨Bool.eq_iff_iff.2 ((isSome_prioChoice _ _).trans irq_iff.symm),
    Bool.eq_iff_iff.2 ((isSome_prioChoice _ _).trans fiq_iff.symm),
    fun _ hwin => winner_of_prioChoice (fun _ => mem_irqSet) (irqSet_rising s) hwin,
    fun _ hwin => winner_of_prioChoice (fun _ => mem_fiqSet) (fiqSet_rising s) hwin⟩

end Sys2Proof.Proofs
end

section
/-! `SET_LINE_SEC` and `SET_LINE_PRI` by their tests, and the one raw bit they write (43_interrupt_fabric.md R172,
R173). -/

namespace Sys2Proof.Proofs

open Sys2Proof.Machine Sys2Proof.Safety Sys2Proof.Laws

variable {s : State} {ctl : Ctrl} {d : Ident} {id : DWord} {b : Bool}

theorem exec_setLineOp (ctl : Ctrl) (d : Ident) (id : DWord) (b : Bool) (s : State) :
    exec (setLineOp ctl d id b) s = proceed (setLine ctl d id b s) := by
  cases ctl <;> rfl

theorem setLine_of_not_drives (hp : s.phase ≠ .failed) (hd : ¬ drives s d ctl id.toNat = true) (b : Bool) :
    setLine ctl d id b s = refuse .line s := by
  simp only [setLine, hp, hd, if_false, Bool.not_false, if_true]

theorem setLine_of_drives (hp : s.phase ≠ .failed) (hd : drives s d ctl id.toNat = true) (b : Bool) :
    setLine ctl d id b s = respond .none (setRaw ctl id.toNat b s) := by
  simp only [setLine, hp, hd, if_false, Bool.not_true, Bool.false_eq_true]

/-- A device that does not drive the line is refused, on the cascade line every device. -/
theorem refusedWith_setLineOp (hp : s.phase ≠ .failed) (hd : ¬ drives s d ctl id.toNat = true) (b : Bool) :
    RefusedWith (setLineOp ctl d id b) s .line :=
  refusedWith_of_refuse ((exec_setLineOp ctl d id b s).trans (congrArg proceed (setLine_of_not_drives hp hd b)))

theorem exec_setLineOp_of_drives (hp : s.phase ≠ .failed) (hd : drives s d ctl id.toNat = true) (b : Bool) :
    exec (setLineOp ctl d id b) s = .next (respond .none (setRaw ctl id.toNat b s)) :=
  (exec_setLineOp ctl d id b s).trans (congrArg proceed (setLine_of_drives hp hd b))

/-- The bits of a controller after a write of one of its raw bits. -/
theorem setRaw_raw_same (ctl : Ctrl) (id : Nat) (b : Bool) (s : State) {j : Nat} (hj : j < 32) :
    (controller (setRaw ctl id b s) ctl).raw.getLsbD j = if j = id then b else (controller s ctl).raw.getLsbD j := by
  simp only [setRaw_raw, hj, true_and, and_true]

/-- Settles O38: the device drives the line or not. -/
theorem setLineSecEffect : Obligations.SetLineSecEffect := by
  intro s d id b _
  refine ⟨fun hp => refusedWith_of_refuse (exec_of_failed hp _),
    fun hp hno => refusedWith_setLineOp (ctl := .sec) hp (fun hd => ?_) b, fun hp hid hdrv => ?_⟩
  · obtain ⟨hid, -, hdrv⟩ := drives_iff.1 hd
    exact hno ⟨hid, hdrv⟩
  · have hd : drives s d .sec id.toNat = true := drives_iff.2 ⟨hid, rfl, hdrv⟩
    exact ⟨_, exec_setLineOp_of_drives hp hd b, rfl, rfl, fun j hj => setRaw_raw_same .sec id.toNat b s hj⟩

/-- Settles O39: the device drives the line or not, and no device drives the cascade line. -/
theorem setLinePriEffect : Obligations.SetLinePriEffect := by
  intro s d id b _
  refine ⟨fun hp => refusedWith_of_refuse (exec_of_failed hp _),
    fun hp hno => refusedWith_setLineOp (ctl := .pri) hp (fun hd => ?_) b, fun hp hcas hid hdrv => ?_⟩
  · obtain ⟨hid, hcas, hdrv⟩ := drives_iff.1 hd
    rcases hno with hno | hno
    · exact of_decide_eq_false hcas hno
    · exact hno ⟨hid, hdrv⟩
  · have hd : drives s d .pri id.toNat = true := drives_iff.2 ⟨hid, decide_eq_false hcas, hdrv⟩
    exact ⟨_, exec_setLineOp_of_drives hp hd b, rfl, rfl, fun j hj => setRaw_raw_same .pri id.toNat b s hj⟩

end Sys2Proof.Proofs
end

section
/-! `CONNECT_LINE_SEC` and `CONNECT_LINE_PRI` by their tests (43_interrupt_fabric.md R170, R171). -/

namespace Sys2Proof.Proofs

open Sys2Proof.Machine Sys2Proof.Safety Sys2Proof.Laws

variable {s : State} {ctl : Ctrl}

theorem exec_connectOp (ctl : Ctrl) (d : Ident) (id : DWord) (s : State) :
    exec (connectOp ctl d id) s = proceed (connectLine ctl d id s) := by
  cases ctl <;> rfl

theorem isCascade_iff {c : Cfg} {id : Nat} : isCascade c ctl id = true ↔ ctl = .pri ∧ c.cascade = some id := by
  cases ctl <;> simp [isCascade]

/-- A line is taken where it is bound or the primary's cascade line. -/
theorem lineTaken_iff {id : Nat} :
    (isCascade s.cfg ctl id || (lineDriver s ctl id).isSome) = true ↔
      lineDriver s ctl id ≠ none ∨ (ctl = .pri ∧ s.cfg.cascade = some id) := by
  rw [Bool.or_eq_true, isCascade_iff, Option.isSome_iff_ne_none, or_comm]

theorem connectLine_of_not_config (hp : s.phase ≠ .config) (ctl : Ctrl) (d : Ident) (id : DWord) :
    connectLine ctl d id s = refuse .phase s := if_pos hp

/-- The tests of a line in `CONFIG`, in their order. -/
theorem connectLine_of_config (hp : s.phase = .config) (ctl : Ctrl) (d : Ident) (id : DWord) :
    connectLine ctl d id s =
      if lineCount s.cfg ctl ≤ id.toNat then raiseConfigError (.lineOutOfRange ctl id) s
      else if isCascade s.cfg ctl id.toNat || (lineDriver s ctl id.toNat).isSome then
        raiseConfigError (.dupLine ctl id.toNat (lineDriver s ctl id.toNat) d) s
      else respond .none (bindLine ctl id.toNat d s) := by
  simp only [connectLine, hp, ne_eq, not_true_eq_false, if_false]

/-- Binding a line changes a connection map only. -/
theorem bindLine_frame (ctl : Ctrl) (id : Nat) (d : Ident) (s : State) :
    { bindLine ctl id d s with
      sec := ⟨(bindLine ctl id d s).sec.raw, s.sec.conn⟩, pri := ⟨(bindLine ctl id d s).pri.raw, s.pri.conn⟩ } = s := by
  cases ctl <;> rfl

/-- Settles O53: each test in its order, and the line bound past them. -/
theorem connectLineOutcome : Obligations.ConnectLineOutcome := by
  intro s ctl d id
  have hexec := exec_connectOp ctl d id s
  refine ⟨fun hp => ?phase, fun hp hid => ?range, fun hp hid htaken => ?taken, fun hp hid hfree hcas => ?bound⟩
  case phase =>
    rw [connectLine_of_not_config hp] at hexec
    exact refusedWith_of_refuse hexec
  case range =>
    rw [connectLine_of_config hp, if_pos hid] at hexec
    exact failsConfig_of_raise hexec rfl
  case taken =>
    rw [connectLine_of_config hp, if_neg (not_le.2 hid), if_pos (lineTaken_iff.2 htaken)] at hexec
    exact failsConfig_of_raise hexec rfl
  case bound =>
    have hno : ¬ (lineDriver s ctl id.toNat ≠ none ∨ (ctl = .pri ∧ s.cfg.cascade = some id.toNat)) :=
      not_or.2 ⟨not_not.2 hfree, hcas⟩
    rw [connectLine_of_config hp, if_neg (not_le.2 hid), if_neg (mt lineTaken_iff.1 hno)] at hexec
    exact ⟨_, hexec, rfl, fun c j => lineDriver_bindLine ctl c id.toNat j d s,
      congrArg (·.setResponse s.response) (bindLine_frame ctl id.toNat d s)⟩

end Sys2Proof.Proofs
end

section
/-! The ENABLE register of a controller: what a 32-bit write leaves in it, and that no other operation reaches it
(43_interrupt_fabric.md R178). -/

namespace Sys2Proof.Proofs

open Sys2Proof.Machine Sys2Proof.Safety Sys2Proof.Laws

variable {s t : State} {i : Instr} {a : Access} {r : Range} {ctl : Ctrl} {sl m : Ident} {off len : Nat} {dir : Dir}

/-! ### The write -/

theorem isBankKind_ctrlKind (ctl : Ctrl) : isBankKind (ctrlKind ctl) = true := by
  cases ctl <;> rfl

theorem overrideAt_enable (ctl : Ctrl) : overrideAt (ctrlKind ctl) .write 0x04 := by
  cases ctl
  · exact .inr (.inl rfl)
  · exact .inr (.inl rfl)

theorem writeOverride_enable (ctl : Ctrl) (sl : Ident) (v : Word) (s : State) :
    writeOverride sl (ctrlKind ctl) 0x04 v s = setCell sl 0x04 (v &&& lineMask (lineCount s.cfg ctl)) s := by
  cases ctl <;> rfl

/-- A 32-bit write at the offset of a controller's ENABLE register. -/
structure EnableWrite (i : Instr) (s : State) (m : Ident) (addr : DWord) (u : Bool) (r : Range) (ctl : Ctrl) :
    Prop where
  access : accessOf i = some ⟨m, addr, 4, u, .write⟩
  in_range : InRange s addr 4 r
  slave : r.slave = controllerId s.cfg ctl
  plain : PlainSlave s r.slave (ctrlKind ctl)
  offset : localOffset r addr = 0x04

theorem EnableWrite.exec_eq {addr : DWord} {u : Bool} (h : EnableWrite i s m addr u r ctl) :
    exec i s = .next (respond .none
      (setCell r.slave 0x04 (lowWord (writeValue i) &&& lineMask (lineCount s.cfg ctl)) s)) := by
  have hacc : BankAccess s ⟨m, addr, 4, u, .write⟩ r (ctrlKind ctl) :=
    ⟨h.in_range, admitted_of_plainSlave h.plain m _ _, isBankKind_ctrlKind ctl, by simp [h.offset]⟩
  have hclass : bankClass s r.slave (ctrlKind ctl) (localOffset r addr) .write = .override := by
    rw [h.offset]
    exact bankClass_of_overrideAt (overrideAt_enable ctl)
  refine hacc.exec_writeWord h.access (by simp [hclass]) ?_
  rw [bankWriteWord_of_override hclass, h.offset, writeOverride_enable]

theorem enableOf_setCell_same (h : hasCell s (controllerId s.cfg ctl) 0x04 = true) (v : Word) :
    enableOf (setCell (controllerId s.cfg ctl) 0x04 v s) ctl = v := by
  rw [enableOf, (setCell_sameFabric _ _ _ _).cfg]
  exact cellValue_setCell_same _ _ _ _ h

/-! ### Every other operation -/

/-- A device writes no cell of another slave (44_device_threads.md R201). -/
theorem cellValue_deviceSteps_other {d : Ident} (steps : DeviceSteps d s t) (hne : sl ≠ d) (hoff : off < 2 ^ 32) :
    cellValue t sl off = cellValue s sl off := by
  induction steps with
  | refl => rfl
  | cell ok _ ih =>
    rw [cellValue_setCell_other _ _ _ _ _ _ fun hkey => hne (cellKey_inj hoff ok.key hkey).1]
    exact ih
  | ram _ _ _ ih => exact ih
  | other _ ih => exact ih
  | line _ ih => exact (cellValue_frame (deviceSetLine_bank _ _ _ _ _) _ _).trans ih

theorem enableOf_deviceSteps_other {d : Ident} (steps : DeviceSteps d s t) (hne : controllerId s.cfg ctl ≠ d) :
    enableOf t ctl = enableOf s ctl := by
  rw [enableOf, (deviceSteps_sameFabric steps).cfg]
  exact cellValue_deviceSteps_other steps hne (by decide)

/-- Whatever ids a board gives them, the slave at a controller's id is a controller. -/
theorem exists_kindOf_controllerId (c : Cfg) (ctl : Ctrl) :
    ∃ ctl', kindOf c (controllerId c ctl) = some (ctrlKind ctl') := by
  by_cases hne : c.secId = c.priId
  · exact ⟨.sec, by cases ctl <;> simp [controllerId, kindOf, ctrlKind, hne]⟩
  · exact ⟨ctl, kindOf_controllerId hne ctl⟩

theorem controllerId_ne_of_autonomous {c : Cfg} {d : Ident} (h : autonomous c d = true) : controllerId c ctl ≠ d := by
  rintro rfl
  obtain ⟨ctl', hk⟩ := exists_kindOf_controllerId c ctl
  cases ctl' <;> simp [autonomous, hk, ctrlKind] at h

theorem controllerId_ne_of_isBank {c : Cfg} (h : isBank c sl = true) : controllerId c ctl ≠ sl := by
  rintro rfl
  obtain ⟨ctl', hk⟩ := exists_kindOf_controllerId c ctl
  cases ctl' <;> simp [isBank, hk, ctrlKind] at h

theorem fixedKind_ctrlKind (ctl : Ctrl) : FixedKind (ctrlKind ctl) := by
  cases ctl
  · exact .inl rfl
  · exact .inr (.inl rfl)

/-- A controller serves aligned 32-bit accesses only (41_register_bank.md R116, R119). -/
theorem aligned_word_of_canAccess (hk : kindOf s.cfg sl = some (ctrlKind ctl)) (hlen : isAccessLen len = true)
    (hcan : canAccess s sl m off len dir = true) : len = 4 ∧ off % len = 0 := by
  have hb := isBankKind_ctrlKind ctl
  obtain ⟨hpos, -⟩ := accessLen_bounds hlen
  have halign : off % len = 0 := by
    by_contra hmis
    cases (canAccess_bank_misaligned hk hb hpos hmis m dir).symm.trans hcan
  rw [canAccess_of_aligned halign] at hcan
  refine ⟨?_, halign⟩
  rcases isAccessLen_cases hlen with rfl | rfl | rfl | rfl
  · cases (supports_bank_subword hk hb (.inl rfl) m off dir).symm.trans hcan
  · cases (supports_bank_subword hk hb (.inr rfl) m off dir).symm.trans hcan
  · rfl
  · obtain ⟨hwl, -⟩ := (bankSupports_dword hb).1 (bankSupports_of_supports hk hb hcan)
    cases ctl <;> cases hwl

/-- A word write to a controller at another offset leaves its ENABLE register. -/
theorem cellValue_bankWriteWord_enable (hoff : off ≠ 0x04) (v : Word) :
    cellValue (bankWriteWord sl (ctrlKind ctl) off v s) sl 0x04 = cellValue s sl 0x04 := by
  cases hclass : bankClass s sl (ctrlKind ctl) off .write with
  | override =>
    rw [bankWriteWord_of_override hclass, writeOverride_of_readOnly (by cases ctl <;> simp [ctrlKind]) hoff]
  | cell =>
    rw [bankWriteWord_of_cell hclass]
    exact cellValue_setCell_other _ _ _ _ _ _ (cellKey_ne_of_offset_ne sl hoff.symm)
  | reserved => rw [bankWriteWord_of_reserved hclass]
  | dflt =>
    rw [bankWriteWord_of_dflt hclass]
    cases ctl <;> rfl
  | undecoded => simp only [bankWriteWord, hclass]

theorem enableOf_bankWriteWord {ctl' : Ctrl} (hk : kindOf s.cfg sl = some (ctrlKind ctl'))
    (hsl : sl = controllerId s.cfg ctl) (hoff : off ≠ 0x04) (v : Word) :
    enableOf (bankWriteWord sl (ctrlKind ctl') off v s) ctl = enableOf s ctl := by
  rw [enableOf, (deviceSteps_sameFabric (bankWriteWord_steps sl _ off v s hk)).cfg, ← hsl,
    cellValue_bankWriteWord_enable hoff, enableOf, hsl]

/-- Of the accesses a controller serves, only a word write at its ENABLE register changes it. -/
theorem enable_write_of_served (h : Served s a r) (hi : accessOf i = some a) (hexec : exec i s = .next t)
    (hr : r.slave = controllerId s.cfg ctl) (hne : enableOf t ctl ≠ enableOf s ctl) :
    a.dir = .write ∧ a.len = 4 ∧ localOffset r a.addr = 0x04 := by
  obtain ⟨ctl', hk⟩ := exists_kindOf_controllerId s.cfg ctl
  rw [← hr] at hk
  obtain ⟨hlen, halign⟩ := aligned_word_of_canAccess hk (isAccessLen_of_accessOf hi) h.can
  cases hd : a.dir with
  | read =>
    cases hexec.symm.trans (h.exec_read hi hd)
    rw [slaveReadU_snd (fixedKind_ctrlKind ctl') hk] at hne
    exact absurd rfl hne
  | write =>
    refine ⟨rfl, hlen, ?_⟩
    by_contra hoff
    cases hexec.symm.trans (h.exec_write hi hd)
    rw [slaveWriteU_of_aligned halign, slaveWrite_bank hk (isBankKind_ctrlKind ctl'), hlen] at hne
    exact hne (enableOf_bankWriteWord hk hr hoff _)

/-- Settles O31: the write override of ENABLE, and for the converse every effect of an operation on the cell. -/
theorem enableMaskWrites : Obligations.EnableMaskWrites := by
  refine ⟨fun i s m addr u r ctl hi hin hr hk hoff hcell => ?write, fun i s t ctl hexec hne => ?only⟩
  case write =>
    have hwrite : EnableWrite i s m addr u r ctl := ⟨hi, hin, hr, hk, hoff⟩
    refine ⟨_, hwrite.exec_eq, rfl, ?_, ?_, fun key hkey => mapGet_setCell_other _ _ _ _ hkey⟩
    · obtain ⟨b, hb⟩ := setCell_eq_setBank r.slave 0x04 (lowWord (writeValue i) &&& lineMask (lineCount s.cfg ctl)) s
      rw [hb]
      rfl
    · rw [hr] at hcell ⊢
      exact enableOf_setCell_same hcell _
  case only =>
    cases exec_next_effect hexec with
    | access a r u d hi hp hm steps =>
      obtain ⟨q, hserved⟩ := (exec_ok_iff_served hi).1 ⟨_, d, hexec, rfl⟩
      obtain ⟨-, hq, -⟩ := hserved.in_range
      cases Option.some.inj (hm.symm.trans hq)
      have hr : r.slave = controllerId s.cfg ctl := by
        by_contra hother
        exact hne (enableOf_deviceSteps_other (t := u) steps (Ne.symm hother))
      obtain ⟨m, addr, len, u, dir⟩ := a
      obtain ⟨hd, hlen, hoff⟩ := enable_write_of_served hserved hi hexec hr hne
      cases hd
      cases hlen
      exact ⟨m, addr, u, r, hi, hm, hr, hoff⟩
    | tick d hi hp ha =>
      exact absurd (enableOf_deviceSteps_other (tickDevice_steps d s ha) (controllerId_ne_of_autonomous ha)) hne
    | addRegister sl off rv hi hp hk =>
      exact absurd (cellValue_setBank_mapSet_of_ne (controllerId_ne_of_isBank hk) off.isLt (by decide) _) hne
    | setLine ctl' | connect ctl' => exact absurd (by cases ctl' <;> rfl) hne
    | _ => exact absurd rfl hne

end Sys2Proof.Proofs
end

section
/-! The states of a line, and what `set_line` and a write to ENABLE do to them (10_state.md R17; 43_interrupt_fabric.md
R179). -/

namespace Sys2Proof.Proofs

open Sys2Proof.Machine Sys2Proof.Safety Sys2Proof.Laws

variable {s t : State} {i : Instr} {ctl : Ctrl} {d : Ident} {j : Nat} {b : Bool}

theorem lineCount_le (h : s.cfg.lineCountsOk = true) (ctl : Ctrl) : lineCount s.cfg ctl ≤ 32 := by
  simp only [Cfg.lineCountsOk, decide_eq_true_eq] at h
  cases ctl <;> simp only [lineCount] <;> omega

/-- A line's state by its enable bit and its raw bit (10_state.md R17). -/
theorem lineState_eq (s : State) (ctl : Ctrl) (j : Nat) :
    lineState s ctl j = if (enableOf s ctl).getLsbD j then
      (if lineRaw s ctl j then .enabledAsserted else .enabledClear) else .disabled := by
  unfold lineState
  cases (enableOf s ctl).getLsbD j <;> cases lineRaw s ctl j <;> rfl

/-- The controller sees the stored raw bit of every line but the cascade line (10_state.md R16, R20). -/
theorem lineRaw_of_not_cascade (hle : lineCount s.cfg ctl ≤ 32) (hj : j < lineCount s.cfg ctl)
    (hcas : isCascade s.cfg ctl j = false) : lineRaw s ctl j = (controller s ctl).raw.getLsbD j := by
  cases ctl with
  | sec => rw [lineRaw, getLsbD_rawOf, decide_eq_true hj, Bool.true_and]
  | pri =>
    have hne : s.cfg.cascade ≠ some j := of_decide_eq_false hcas
    have hlt : j < s.cfg.nPri := hj
    rw [lineRaw, getLsbD_priRawEff s (hj.trans_le hle), if_neg hne, decide_eq_true hlt, Bool.true_and]
    rfl

/-! ### `set_line` -/

/-- A `SET_LINE_*` that succeeds wrote one raw bit of a line its device drives. -/
theorem eq_setRaw_of_setLineOp_ok {id : DWord} (h : exec (setLineOp ctl d id b) s = .next t)
    (hok : t.response = some (.ok .none)) : t = respond .none (setRaw ctl id.toNat b s) := by
  by_cases hp : s.phase = .failed
  · cases h.symm.trans (exec_of_failed hp _)
    cases hok
  · by_cases hd : drives s d ctl id.toNat = true
    · cases h.symm.trans (exec_setLineOp_of_drives hp hd b)
      rfl
    · obtain ⟨u, hu, hrefused, -⟩ := refusedWith_setLineOp hp hd b
      cases h.symm.trans hu
      cases hok.symm.trans hrefused

@[simp] theorem enableOf_setRaw (ctl ctl' : Ctrl) (id : Nat) (b : Bool) (s : State) :
    enableOf (setRaw ctl id b s) ctl' = enableOf s ctl' := by
  cases ctl <;> rfl

theorem lineRaw_setRaw (hle : lineCount s.cfg ctl ≤ 32) (hj : j < lineCount s.cfg ctl)
    (hcas : isCascade s.cfg ctl j = false) (id : Nat) (b : Bool) :
    lineRaw (setRaw ctl id b s) ctl j = if j = id then b else lineRaw s ctl j := by
  rw [lineRaw_of_not_cascade (by rwa [setRaw_cfg]) (by rwa [setRaw_cfg]) (by rwa [setRaw_cfg]),
    lineRaw_of_not_cascade hle hj hcas, setRaw_raw_same _ _ _ _ (hj.trans_le hle)]

/-- The state of a line after `set_line` on line `id`: an enabled line follows the value, a disabled one stays so. -/
theorem lineState_setRaw (hle : lineCount s.cfg ctl ≤ 32) (hj : j < lineCount s.cfg ctl)
    (hcas : isCascade s.cfg ctl j = false) (id : Nat) (b : Bool) :
    lineState (setRaw ctl id b s) ctl j =
      if j ≠ id then lineState s ctl j
      else if lineState s ctl j = .disabled then .disabled
      else if b then .enabledAsserted else .enabledClear := by
  rw [lineState_eq, enableOf_setRaw, lineRaw_setRaw hle hj hcas, lineState_eq]
  by_cases hid : j = id
  · rw [if_neg (not_not.2 hid), if_pos hid]
    cases (enableOf s ctl).getLsbD j
    · rfl
    · cases lineRaw s ctl j <;> rfl
  · rw [if_pos hid, if_neg hid]

/-! ### ENABLE writes -/

/-- A write to a cell changes no line's raw bit. -/
theorem lineRaw_setCell {sl : Ident} {off : Nat} {v : Word} (hle : lineCount s.cfg ctl ≤ 32)
    (hj : j < lineCount s.cfg ctl) (hcas : isCascade s.cfg ctl j = false) :
    lineRaw (setCell sl off v s) ctl j = lineRaw s ctl j := by
  have hcfg := (setCell_sameFabric sl off v s).cfg
  rw [lineRaw_of_not_cascade (by rwa [hcfg]) (by rwa [hcfg]) (by rwa [hcfg]), controller_setCell,
    lineRaw_of_not_cascade hle hj hcas]

theorem getLsbD_lowWord (v : DWord) (hj : j < 32) : (lowWord v).getLsbD j = v.getLsbD j := by
  simp only [lowWord, BitVec.getLsbD_extractLsb', hj, decide_true, Bool.true_and, Nat.zero_add]

/-- The state of a line after a write to ENABLE: disabled where the bit is 0, by its raw bit where it is 1. -/
theorem lineState_enableWrite (hle : lineCount s.cfg ctl ≤ 32) (hj : j < lineCount s.cfg ctl)
    (hcas : isCascade s.cfg ctl j = false) (hcell : hasCell s (controllerId s.cfg ctl) 0x04 = true) (v : DWord) :
    lineState (setCell (controllerId s.cfg ctl) 0x04 (lowWord v &&& lineMask (lineCount s.cfg ctl)) s) ctl j =
      if v.getLsbD j then (if lineRaw s ctl j then .enabledAsserted else .enabledClear) else .disabled := by
  rw [lineState_eq, enableOf_setCell_same hcell, lineRaw_setCell hle hj hcas, getLsbD_and_lineMask,
    getLsbD_lowWord v (hj.trans_le hle), decide_eq_true hj, Bool.true_and]

/-- Settles O40: `set_line` writes a raw bit, an ENABLE write the enable bits. -/
theorem lineStateTransitions : Obligations.LineStateTransitions := by
  refine ⟨fun s t ctl d id b hcfg hexec hok j hj hcas => ?setLine,
    fun i s m addr u r ctl hcfg hi hin hr hk hoff hcell => ?enable⟩
  case setLine =>
    cases eq_setRaw_of_setLineOp_ok hexec hok
    exact lineState_setRaw (lineCount_le hcfg ctl) hj hcas id.toNat b
  case enable =>
    have hwrite : EnableWrite i s m addr u r ctl := ⟨hi, hin, hr, hk, hoff⟩
    refine ⟨_, hwrite.exec_eq, rfl, fun j hj hcas => ?_⟩
    rw [hr] at hcell ⊢
    exact lineState_enableWrite (lineCount_le hcfg ctl) hj hcas hcell (writeValue i)

end Sys2Proof.Proofs
end

section
/-! A timer on a line of the primary: its tick raises `irq`, and clearing its `PEND` lowers it where no other line keeps
it true (43_interrupt_fabric.md R185; 44_device_threads.md R206, R207). -/

namespace Sys2Proof.Proofs

open Sys2Proof.Machine Sys2Proof.Safety Sys2Proof.Laws

variable {s t : State} {d : Ident} {id j : Nat} {v : Word}

/-! ### A timer and its line -/

/-- Device `d` is a timer with its status register, and its output is line `id` of the primary, which it drives. -/
structure TimerOnPrimary (s : State) (d : Ident) (id : Nat) : Prop where
  kind : kindOf s.cfg d = some .tmr
  stat : hasCell s d 0x0C = true
  output : irqOutOf s.cfg d = some ⟨.pri, id⟩
  drives : drives s d .pri id = true
  width : id < 32

theorem TimerOnPrimary.frame (h : TimerOnPrimary s d id) (hsame : SameFabric s t)
    (hcell : hasCell t d 0x0C = hasCell s d 0x0C) : TimerOnPrimary t d id :=
  ⟨hsame.cfg ▸ h.kind, hcell.trans h.stat, hsame.cfg ▸ h.output, (drives_of_sameFabric hsame d .pri id).trans h.drives,
    h.width⟩

theorem TimerOnPrimary.setCell (h : TimerOnPrimary s d id) (sl : Ident) (off : Nat) (v : Word) :
    TimerOnPrimary (setCell sl off v s) d id :=
  h.frame (setCell_sameFabric sl off v s) (hasCell_setCell _ _ _ _ _ _)

theorem TimerOnPrimary.respond (h : TimerOnPrimary s d id) (x : Data) : TimerOnPrimary (respond x s) d id :=
  ⟨h.kind, h.stat, h.output, h.drives, h.width⟩

theorem TimerOnPrimary.driveOutput_eq (h : TimerOnPrimary s d id) (b : Bool) :
    driveOutput d b s = setRaw .pri id b s := by
  simp only [driveOutput, h.output, deviceSetLine, h.drives, if_true]

/-- The timer's line is not the cascade line: its stored raw bit decides. -/
theorem TimerOnPrimary.masked_iff (h : TimerOnPrimary s d id) :
    (priMasked s).getLsbD id = true ↔ s.pri.raw.getLsbD id = true ∧ (enableOf s .pri).getLsbD id = true := by
  obtain ⟨hid, hcas, -⟩ := drives_iff.1 h.drives
  have hne : s.cfg.cascade ≠ some id := of_decide_eq_false hcas
  rw [getLsbD_priMasked_iff, if_neg hne]
  exact and_iff_right hid

/-- A timer's own steps write no ENABLE register (44_device_threads.md R201). -/
theorem enableOf_timerSteps (hk : kindOf s.cfg d = some .tmr) (steps : DeviceSteps d s t) (ctl : Ctrl) :
    enableOf t ctl = enableOf s ctl :=
  enableOf_deviceSteps_other steps (controllerId_ne_of_autonomous (by simp only [autonomous, hk]))

/-! ### The tick -/

theorem exec_tick_tmr (hp : s.phase ≠ .failed) (hk : kindOf s.cfg d = some .tmr) (hrun : runState s d = .running)
    (herr : devErrorHolds s.cfg d (devView s d) = false) : exec (.tick d) s = .next (respond .none (tickTmr d s)) := by
  have hauto : autonomous s.cfg d = true := by simp only [autonomous, hk]
  refine congrArg proceed ?_
  simp [tickStep, hp, hauto, hrun, herr, tickDevice_of_tmr hk]

/-- The comparator of R206 as a comparison of 64-bit words. -/
theorem elapsed_iff {w : Word} {c : DWord} : w.setWidth 64 ≤ c ↔ w.toNat ≤ c.toNat := by
  rw [BitVec.le_def, BitVec.toNat_setWidth_of_le (by decide)]

/-- The tick that reaches the comparator counts, sets `PEND` and raises the line. -/
theorem TimerOnPrimary.tickTmr_eq (h : TimerOnPrimary s d id)
    (helapsed : (cellValue s d 0x08).setWidth 64 ≤ tmrCount s d + 1) :
    ∃ u, TimerOnPrimary u d id ∧ tickTmr d s = setRaw .pri id true (Machine.setCell d 0x0C 1 u) := by
  have hcount := (h.setCell d 0x00 (lowWord (tmrCount s d + 1))).setCell d 0x04 (highWord (tmrCount s d + 1))
  refine ⟨_, hcount, ?_⟩
  rw [← (hcount.setCell d 0x0C 1).driveOutput_eq true]
  exact if_pos (elapsed_iff.1 helapsed)

theorem setRaw_bank (ctl : Ctrl) (id : Nat) (b : Bool) (s : State) : (setRaw ctl id b s).bank = s.bank := by
  cases ctl <;> rfl

/-- What the elapsed tick leaves: the timer on its line, `PEND` set and the line raised. -/
theorem TimerOnPrimary.after_tick (h : TimerOnPrimary s d id)
    (helapsed : (cellValue s d 0x08).setWidth 64 ≤ tmrCount s d + 1) :
    TimerOnPrimary (tickTmr d s) d id ∧ pend (tickTmr d s) d = true ∧ (tickTmr d s).pri.raw.getLsbD id = true := by
  refine ⟨?_, ?_⟩
  · have hsteps := tickTmr_steps d s h.kind
    exact h.frame (deviceSteps_sameFabric hsteps) (deviceSteps_hasCell hsteps d 0x0C)
  · obtain ⟨u, hu, htick⟩ := h.tickTmr_eq helapsed
    rw [htick]
    refine ⟨?_, (setRaw_raw_same .pri id true _ h.width).trans (if_pos rfl)⟩
    rw [pend, cellValue_frame (setRaw_bank _ _ _ _), cellValue_setCell_same _ _ _ _ hu.stat]
    rfl

/-! ### Clearing `PEND` -/

theorem getLsbD_cleared (old : Word) (hv : v.getLsbD 0 = true) : (old &&& ~~~v &&& 1).getLsbD 0 = false := by
  simp only [BitVec.getLsbD_and, BitVec.getLsbD_not, hv, Bool.not_true, Bool.and_false, Bool.false_and]

/-- A write of 1 to a set `PEND` clears it and lowers the line (44_device_threads.md R207). -/
theorem TimerOnPrimary.writeTmrStat_eq (h : TimerOnPrimary s d id) (hpend : pend s d = true) (hv : v.getLsbD 0 = true) :
    writeTmrStat d v s = setRaw .pri id false (Machine.setCell d 0x0C (cellValue s d 0x0C &&& ~~~v &&& 1) s) := by
  rw [← (h.setCell d 0x0C _).driveOutput_eq false]
  exact if_pos ⟨hpend, getLsbD_cleared _ hv⟩

/-- Clearing `PEND` lowers the timer's line and keeps every other raw bit. -/
theorem TimerOnPrimary.raw_after_clear (h : TimerOnPrimary s d id) (hpend : pend s d = true) (hv : v.getLsbD 0 = true) :
    (writeTmrStat d v s).sec.raw = s.sec.raw ∧ (writeTmrStat d v s).pri.raw.getLsbD id = false ∧
      ∀ j ≠ id, (writeTmrStat d v s).pri.raw.getLsbD j = s.pri.raw.getLsbD j := by
  have hctl := controller_setCell d 0x0C (cellValue s d 0x0C &&& ~~~v &&& 1) s
  rw [h.writeTmrStat_eq hpend hv]
  refine ⟨congrArg Controller.raw (hctl .sec), (setRaw_raw_same .pri id false _ h.width).trans (if_pos rfl),
    fun j hj => ?_⟩
  refine (setRaw_raw .pri .pri id j false _).trans ((if_neg fun ⟨_, hline, _⟩ => hj hline).trans ?_)
  rw [hctl]
  rfl

theorem secAggr_frame (hc : t.cfg = s.cfg) (hen : enableOf t .sec = enableOf s .sec) (hsec : t.sec.raw = s.sec.raw) :
    secAggr t = secAggr s := by
  rw [Bool.eq_iff_iff, secAggr_iff, secAggr_iff, hc, hen, hsec]

/-- A line is masked-asserted as before where its stored raw bit, the enable masks and the secondary are as before. -/
theorem getLsbD_priMasked_frame (hc : t.cfg = s.cfg) (hen : ∀ ctl, enableOf t ctl = enableOf s ctl)
    (hsec : t.sec.raw = s.sec.raw) (hpri : t.pri.raw.getLsbD j = s.pri.raw.getLsbD j) :
    (priMasked t).getLsbD j = true ↔ (priMasked s).getLsbD j = true := by
  rw [getLsbD_priMasked_iff, getLsbD_priMasked_iff, secAggr_frame hc (hen .sec) hsec, hc, hen, hpri]

/-- Clearing `PEND` leaves in `irq_set` no line but the members of before without the timer's line. -/
theorem TimerOnPrimary.mem_irqSet_after_clear (h : TimerOnPrimary s d id) (hpend : pend s d = true)
    (hv : v.getLsbD 0 = true) (hj : j ∈ irqSet (writeTmrStat d v s)) : j ∈ irqSet s ∧ j ≠ id := by
  have hsteps := writeTmrStat_steps d v s h.kind
  have hsame := deviceSteps_sameFabric hsteps
  have hw : TimerOnPrimary (writeTmrStat d v s) d id := h.frame hsame (deviceSteps_hasCell hsteps d 0x0C)
  obtain ⟨hsec, hline, hother⟩ := h.raw_after_clear hpend hv
  obtain ⟨hm, hsel⟩ := mem_irqSet.1 hj
  have hne : j ≠ id := by
    rintro rfl
    obtain ⟨hset, -⟩ := hw.masked_iff.1 hm
    cases hline.symm.trans hset
  refine ⟨mem_irqSet.2 ⟨?_, hsame.cfg ▸ hsel⟩, hne⟩
  exact (getLsbD_priMasked_frame hsame.cfg (enableOf_timerSteps h.kind hsteps) hsec (hother j hne)).1 hm

theorem TimerOnPrimary.irq_after_clear (h : TimerOnPrimary s d id) (hpend : pend s d = true) (hv : v.getLsbD 0 = true)
    (honly : irqSet s = [id]) : irq (writeTmrStat d v s) = false := by
  refine Bool.eq_false_iff.2 fun hirq => ?_
  obtain ⟨j, hj⟩ := irq_iff.1 hirq
  obtain ⟨hmem, hne⟩ := h.mem_irqSet_after_clear hpend hv hj
  rw [honly] at hmem
  exact hne (List.mem_singleton.1 hmem)

theorem exec_write32_tmrStat {r : Range} {addr : DWord} (hin : InRange s addr 4 r) (hk : PlainSlave s r.slave .tmr)
    (hoff : localOffset r addr = 0x0C) (m : Ident) (v : Word) :
    exec (.write32 m addr v) s = .next (respond .none (writeTmrStat r.slave v s)) := by
  have hword : BankWord s addr r .tmr 0x0C := ⟨hin, hk, rfl, hoff, rfl⟩
  have hclass : bankClass s r.slave .tmr 0x0C .write = .override := bankClass_of_overrideAt rfl
  exact hword.exec_write32 m (by simp [hclass]) (bankWriteWord_of_override hclass v)

/-- Settles O49: the elapsed tick puts the timer's line into `irq_set`, and clearing `PEND` takes it out again. -/
theorem timerRaisesAndClearsIrq : Obligations.TimerRaisesAndClearsIrq := by
  intro s d id hp hk hrun herr hbanks hcfg hout hdrives hen hsel helapsed
  obtain ⟨hid, -⟩ := drives_iff.1 hdrives
  have hstat : hasCell s d 0x0C = true := hbanks.fixed_cells d .tmr hk (0x0C, newCell "TMR_STAT" 0) (by decide)
  have htimer : TimerOnPrimary s d id := ⟨hk, hstat, hout, hdrives, hid.trans_le (lineCount_le hcfg .pri)⟩
  have hsteps := tickTmr_steps d s hk
  obtain ⟨htick, hpend, hraw⟩ := htimer.after_tick helapsed
  have ht := htick.respond .none
  refine ⟨_, exec_tick_tmr hp hk hrun herr, rfl, irq_iff.2 ⟨id, mem_irqSet.2 ⟨ht.masked_iff.2 ⟨hraw, ?_⟩, ?_⟩⟩, ?_⟩
  · exact (congrArg (·.getLsbD id) (enableOf_timerSteps hk hsteps .pri)).trans hen
  · exact (congrArg (·.fiqsel.getLsbD id) (deviceSteps_sameFabric hsteps).cfg).trans hsel
  · rintro m addr v r hin hplain rfl hoff hv
    obtain ⟨-, hline, -⟩ := ht.raw_after_clear hpend hv
    refine ⟨_, exec_write32_tmrStat hin hplain hoff m v, rfl, ?_, hline, ht.irq_after_clear hpend hv⟩
    exact (congrArg (·.getLsbD 0) (cellValue_writeTmrStat ht.stat v)).trans (getLsbD_cleared _ hv)

end Sys2Proof.Proofs
end

section
/-! What the operations of others leave of a device: its cells, its bytes, its other state and the raw bits of the lines
it drives (44_device_threads.md R201; 60_exceptions.md R237; 41_register_bank.md R113). -/

namespace Sys2Proof.Proofs

open Sys2Proof.Machine Sys2Proof.Safety Sys2Proof.Laws

variable {s t : State} {i : Instr} {d e : Ident} {off : Nat}

/-! ### The steps of another device -/

theorem mapGet_bank_deviceSteps_other (steps : DeviceSteps e s t) (hne : d ≠ e) (hoff : off < 2 ^ 32) :
    mapGet t.bank (cellKey d off) = mapGet s.bank (cellKey d off) := by
  induction steps with
  | refl => rfl
  | cell ok _ ih =>
    rw [mapGet_setCell_other _ _ _ _ fun hkey => hne (cellKey_inj hoff ok.key hkey).1]
    exact ih
  | ram _ _ _ ih => exact ih
  | other _ ih => exact ih
  | line _ ih => rwa [deviceSetLine_bank]

@[simp] theorem deviceSetLine_ram (d : Ident) (ctl : Ctrl) (id : Nat) (b : Bool) (s : State) :
    (deviceSetLine d ctl id b s).ram = s.ram := by
  unfold deviceSetLine
  split
  · cases ctl <;> rfl
  · rfl

@[simp] theorem deviceSetLine_devState (d : Ident) (ctl : Ctrl) (id : Nat) (b : Bool) (s : State) :
    (deviceSetLine d ctl id b s).devState = s.devState := by
  unfold deviceSetLine
  split
  · cases ctl <;> rfl
  · rfl

@[simp] theorem setCell_ram (d : Ident) (off : Nat) (v : Word) (s : State) : (setCell d off v s).ram = s.ram := by
  obtain ⟨b, hb⟩ := setCell_eq_setBank d off v s
  rw [hb, setBank_ram]

@[simp] theorem setCell_devState (d : Ident) (off : Nat) (v : Word) (s : State) :
    (setCell d off v s).devState = s.devState := by
  obtain ⟨b, hb⟩ := setCell_eq_setBank d off v s
  rw [hb, setBank_devState]

theorem ramByte_frame (h : t.ram = s.ram) (d : Ident) (off : Nat) : ramByte t d off = ramByte s d off := by
  rw [ramByte, ramByte, h]

theorem devOther_frame (h : t.devState = s.devState) (d : Ident) : devOther t d = devOther s d := by
  rw [devOther, devOther, h]

theorem ramByte_deviceSteps_other (steps : DeviceSteps e s t) (hne : d ≠ e) (hoff : off < 2 ^ 64) :
    ramByte t d off = ramByte s d off := by
  induction steps with
  | refl => rfl
  | cell _ _ ih => exact (ramByte_frame (setCell_ram _ _ _ _) d off).trans ih
  | ram _ hend _ ih => exact (ramByte_ramWrite_outside _ _ _ _ _ _ hoff hend (.inl hne)).trans ih
  | other _ ih => exact ih
  | line _ ih => exact (ramByte_frame (deviceSetLine_ram _ _ _ _ _) d off).trans ih

theorem devOther_setDevState_other (hne : d ≠ e) (l : List DWord) (s : State) :
    devOther (s.setDevState (mapSet s.devState e.toNat l)) d = devOther s d := by
  rw [devOther, devOther, setDevState_devState, mapGet_mapSet_other _ _ fun hkey => hne (BitVec.eq_of_toNat_eq hkey)]

theorem devOther_deviceSteps_other (steps : DeviceSteps e s t) (hne : d ≠ e) : devOther t d = devOther s d := by
  induction steps with
  | refl => rfl
  | cell _ _ ih => exact (devOther_frame (setCell_devState _ _ _ _) d).trans ih
  | ram _ _ _ ih => exact ih
  | other _ ih => exact (devOther_setDevState_other hne _ _).trans ih
  | line _ ih => exact (devOther_frame (deviceSetLine_devState _ _ _ _ _) d).trans ih

/-- A line has one driver (43_interrupt_fabric.md R170, R171). -/
theorem driver_unique {ctl : Ctrl} {id : Nat} (hd : drives s d ctl id = true) (he : drives s e ctl id = true) :
    d = e := by
  obtain ⟨-, -, hdrv⟩ := drives_iff.1 hd
  obtain ⟨-, -, hdrv'⟩ := drives_iff.1 he
  cases hdrv.symm.trans hdrv'
  rfl

/-- What `d` owns is in `t` as it is in `s`. -/
structure Untouched (s t : State) (d : Ident) : Prop where
  cells : ∀ off < 2 ^ 32, mapGet t.bank (cellKey d off) = mapGet s.bank (cellKey d off)
  bytes : ∀ off < 2 ^ 64, ramByte t d off = ramByte s d off
  other : devOther t d = devOther s d
  lines : ∀ ctl id, drives s d ctl id = true →
    (controller t ctl).raw.getLsbD id = (controller s ctl).raw.getLsbD id

theorem untouched_of_deviceSteps_other (steps : DeviceSteps e s t) (hne : d ≠ e) : Untouched s t d where
  cells _ := mapGet_bank_deviceSteps_other steps hne
  bytes _ := ramByte_deviceSteps_other steps hne
  other := devOther_deviceSteps_other steps hne
  lines ctl id hd := by
    by_contra hchanged
    exact hne (driver_unique hd (drives_of_deviceSteps_raw_ne steps hchanged))

/-- An update of none of the maps of cells, bytes, other states and raw bits touches no device. -/
theorem untouched_frame (hb : t.bank = s.bank) (hram : t.ram = s.ram) (hdev : t.devState = s.devState)
    (hraw : ∀ ctl, (controller t ctl).raw = (controller s ctl).raw) (d : Ident) : Untouched s t d :=
  ⟨fun _ _ => by rw [hb], fun _ _ => ramByte_frame hram d _, devOther_frame hdev d, fun ctl _ _ => by rw [hraw ctl]⟩

theorem Untouched.respond (h : Untouched s t d) (x : Data) : Untouched s (respond x t) d where
  cells := h.cells
  bytes := h.bytes
  other := h.other
  lines ctl id hd := by
    rw [controller_respond]
    exact h.lines ctl id hd

/-! ### Every operation of others -/

/-- What may change of device `d` where its functions do not run: `ADD_REGISTER` enters a new cell in `CONFIG`,
`SET_LINE_*` in its name writes the raw bit of the line it names. -/
inductive OwnChange (i : Instr) (s t : State) (d : Ident) : Prop where
  | untouched (h : Untouched s t d)
  | cellAdded (o rv : Word) (hi : i = .addRegister d o rv) (hp : s.phase = .config)
      (hno : mapGet s.bank (cellKey d o.toNat) = none)
      (ht : t = respond .none (s.setBank (mapSet s.bank (cellKey d o.toNat) (newCell "" rv))))
  | lineSet (ctl : Ctrl) (id : DWord) (b : Bool) (hi : i = setLineOp ctl d id b)
      (ht : t = respond .none (setRaw ctl id.toNat b s))

theorem untouched_addRegister_other (hne : d ≠ e) (o : Word) (cell : RegCell) :
    Untouched s (s.setBank (mapSet s.bank (cellKey e o.toNat) cell)) d where
  cells off hoff := by
    rw [setBank_bank, mapGet_mapSet_other _ _ fun hkey => hne (cellKey_inj hoff o.isLt hkey).1]
  bytes _ _ := rfl
  other := rfl
  lines ctl _ _ := by cases ctl <;> rfl

/-- `SET_LINE_*` on a line its device drives is a step of that device. -/
theorem deviceSteps_setRaw {ctl : Ctrl} {id : Nat} (he : drives s e ctl id = true) (b : Bool) :
    DeviceSteps e s (setRaw ctl id b s) := by
  have hline : DeviceSteps e s (deviceSetLine e ctl id b s) := .line (.refl s)
  rwa [deviceSetLine, if_pos he] at hline

theorem ownChange_of_opEffect (h : OpEffect i s t) (hacts : ¬ actsOn s i d) : OwnChange i s t d := by
  cases h with
  | access acc r u x hi hp hm steps =>
    have hne : d ≠ r.slave := fun hd => hacts (.inr ⟨acc, r, hi, hm, hd.symm⟩)
    exact .untouched ((untouched_of_deviceSteps_other steps hne).respond x)
  | tick e hi hp ha =>
    have hne : d ≠ e := fun hd => hacts (.inl (hd ▸ hi))
    exact .untouched ((untouched_of_deviceSteps_other (tickDevice_steps e s ha) hne).respond .none)
  | setLine ctl e id b hi hp he =>
    by_cases hd : d = e
    · subst hd
      exact .lineSet ctl id b (by cases ctl <;> exact hi) rfl
    · exact .untouched ((untouched_of_deviceSteps_other (deviceSteps_setRaw he b) hd).respond .none)
  | addRegister e o rv hi hp hk hal hno =>
    by_cases hd : d = e
    · subst hd
      rw [hasCell_word, Option.isSome_eq_false_iff, Option.isNone_iff_eq_none] at hno
      exact .cellAdded o rv hi hp hno rfl
    · exact .untouched ((untouched_addRegister_other hd o _).respond .none)
  | connect ctl e id =>
    have hbind : Untouched s (bindLine ctl id.toNat e s) d := by
      refine untouched_frame ?_ ?_ ?_ (bindLine_raw ctl · id.toNat e s) d <;> cases ctl <;> rfl
    exact .untouched (hbind.respond .none)
  | _ => exact .untouched (untouched_frame (by rfl) (by rfl) (by rfl) (fun ctl => by cases ctl <;> rfl) d)

/-- Settles O35: a device is untouched but for a new cell and for a line set in its name. -/
theorem deviceIsolation : Obligations.DeviceIsolation := by
  intro i s t d hexec hacts
  cases ownChange_of_opEffect (exec_next_effect hexec) hacts with
  | untouched h =>
    exact ⟨fun off hoff => .inl (h.cells off hoff), h.bytes, h.other, fun ctl id hd => .inl (h.lines ctl id hd)⟩
  | cellAdded o rv hi hp hno ht =>
    subst ht
    refine ⟨fun off hoff => ?_, fun _ _ => rfl, rfl, fun ctl id _ => .inl (by cases ctl <;> rfl)⟩
    by_cases hoffset : o.toNat = off
    · subst hoffset
      exact .inr ⟨hp, hno, o, rv, hi, rfl⟩
    · exact .inl (mapGet_mapSet_other _ _ (cellKey_ne_of_offset_ne d (Ne.symm hoffset)))
  | lineSet ctl id b hi ht =>
    subst ht
    refine ⟨fun off _ => .inl (congrArg (mapGet · _) (setRaw_bank ctl id.toNat b s)), ?_, ?_, fun ctl' j _ => ?_⟩
    · exact fun off _ => ramByte_frame (by cases ctl <;> rfl) d off
    · exact devOther_frame (by cases ctl <;> rfl) d
    · rw [controller_respond]
      refine or_iff_not_imp_left.2 fun hne => ?_
      obtain ⟨rfl, rfl⟩ := eq_of_setRaw_raw_ne hne
      exact ⟨id, b, rfl, hi⟩

end Sys2Proof.Proofs
end

section
/-! `TICK` by its tests (44_device_threads.md R200, R203): the refusals, the device error, and the tick of a device
whose function is open, which stays inside the device (44_device_threads.md R201). -/

namespace Sys2Proof.Proofs

open Sys2Proof.Machine Sys2Proof.Safety Sys2Proof.Laws

variable {s t : State} {i : Instr} {d e : Ident}

/-! ### The tests -/

/-- `TICK` of a device that ticks and runs, in a phase that serves it. -/
structure TickAllowed (s : State) (d : Ident) : Prop where
  phase : s.phase ≠ .failed
  auto : autonomous s.cfg d = true
  running : runState s d = .running

theorem tickStep_of_not_ticking (hp : s.phase ≠ .failed) (h : autonomous s.cfg d = false ∨ runState s d ≠ .running) :
    tickStep d s = refuse .device s := by
  rw [tickStep, if_neg hp, if_pos (by simpa using h)]

theorem TickAllowed.tickStep_eq (h : TickAllowed s d) :
    tickStep d s = if devErrorHolds s.cfg d (devView s d) then respond .none (setRunState d .inert s)
      else respond .none (tickDevice d s) := by
  rw [tickStep, if_neg h.phase, if_neg (by simp [h.auto, h.running])]

theorem TickAllowed.exec_of_error (h : TickAllowed s d) (herr : devErrorHolds s.cfg d (devView s d) = true) :
    exec (.tick d) s = .next (respond .none (setRunState d .inert s)) :=
  congrArg proceed (h.tickStep_eq.trans (if_pos herr))

theorem TickAllowed.exec_of_no_error (h : TickAllowed s d) (herr : devErrorHolds s.cfg d (devView s d) = false) :
    exec (.tick d) s = .next (respond .none (tickDevice d s)) :=
  congrArg proceed (h.tickStep_eq.trans (if_neg (Bool.eq_false_iff.1 herr)))

theorem autonomous_of_never_ticking {c : Cfg} {k : SlaveKind} (hk : kindOf c d = some k)
    (hnever : k = .sec ∨ k = .pri ∨ ∃ size, k = .ram size) : autonomous c d = false := by
  rcases hnever with rfl | rfl | ⟨size, rfl⟩ <;> simp only [autonomous, hk]

/-- Settles O45: the tests of `TICK` in their order, and the kinds without a tick function. -/
theorem tickRefusedUnlessRunning : Obligations.TickRefusedUnlessRunning := fun _ d =>
  ⟨fun hp => refusedWith_of_refuse (exec_of_failed hp (.tick d)),
    fun hp h => refusedWith_of_refuse (congrArg proceed (tickStep_of_not_ticking hp h)),
    fun _ hk hnever => autonomous_of_never_ticking hk hnever⟩

/-- Settles O47: the device error of a device that ticks writes its run state. -/
theorem failedDeviceGoesInert : Obligations.FailedDeviceGoesInert := by
  intro s d hp ha hr herr
  refine ⟨_, (TickAllowed.mk hp ha hr).exec_of_error herr, rfl, (runState_setRunState d d .inert s).trans (if_pos rfl),
    fun e hne => (runState_setRunState d e .inert s).trans (if_neg hne), rfl⟩

/-! ### Run states -/

theorem runState_frame (h : t.run = s.run) (d : Ident) : runState t d = runState s d := by
  rw [runState, runState, h]

theorem haltRun_of_stopped {r : RunState} (h : r = .inert ∨ r = .halted) : haltRun r = r := by
  rcases h with rfl | rfl <;> rfl

theorem runState_of_opEffect_stopped (h : OpEffect i s t) (hlife : LifecycleOk s)
    (hstop : runState s d = .inert ∨ runState s d = .halted) : runState t d = runState s d := by
  cases h with
  | access _ _ _ _ _ _ _ steps => exact runState_frame (deviceSteps_sameFabric steps).run d
  | tick e _ _ ha => exact runState_frame (deviceSteps_sameFabric (tickDevice_steps e s ha)).run d
  | inert e _ _ _ hr =>
    have hne : d ≠ e := by
      rintro rfl
      simp [hr] at hstop
    exact (runState_setRunState e d .inert s).trans (if_neg hne)
  | start _ hp => simp [hlife.not_started (.inl hp) d] at hstop
  | halt => exact (runState_map_haltRun s d).trans (haltRun_of_stopped hstop)
  | setLine ctl e id b => exact runState_frame (setRaw_sameFabric ctl id.toNat b s).run d
  | connect ctl => exact runState_frame (by cases ctl <;> rfl) d
  | _ => rfl

/-- Settles O48: `START_ALL` finds every device Idle, `HALT_ALL` halts what runs, and a tick stops what runs. -/
theorem stoppedDevicesStayStopped : Obligations.StoppedDevicesStayStopped := fun _ _ _ _ hlife hexec hstop =>
  runState_of_opEffect_stopped (exec_next_effect hexec) hlife hstop

/-! ### The tick of an open function -/

theorem isSome_mapGet_setCell (off : Nat) (v : Word) (s : State) (d : Ident) (key : Nat) :
    (mapGet (setCell d off v s).bank key).isSome = (mapGet s.bank key).isSome := by
  by_cases hkey : key = cellKey d off
  · rw [hkey, mapGet_setCell_same, Option.isSome_map]
  · rw [mapGet_setCell_other _ _ _ _ hkey]

/-- The steps of a device neither add a cell nor remove one. -/
theorem isSome_mapGet_deviceSteps (steps : DeviceSteps d s t) (key : Nat) :
    (mapGet t.bank key).isSome = (mapGet s.bank key).isSome := by
  induction steps with
  | refl => rfl
  | cell _ _ ih => exact (isSome_mapGet_setCell _ _ _ _ key).trans ih
  | ram _ _ _ ih => exact ih
  | other _ ih => exact ih
  | line _ ih => rwa [deviceSetLine_bank]

/-- Only a RAM writes RAM bytes. -/
theorem ram_deviceSteps (steps : DeviceSteps d s t) (hk : ∀ size, kindOf s.cfg d ≠ some (.ram size)) :
    t.ram = s.ram := by
  induction steps with
  | refl => rfl
  | cell _ _ ih => exact (setCell_ram _ _ _ _).trans ih
  | ram hram => exact absurd hram (hk _)
  | other _ ih => exact ih
  | line _ ih => exact (deviceSetLine_ram _ _ _ _ _).trans ih

theorem not_ram_of_autonomous {c : Cfg} (h : autonomous c d = true) (size : Nat) : kindOf c d ≠ some (.ram size) :=
  fun hk => Bool.eq_false_iff.1 (autonomous_of_never_ticking hk (.inr (.inr ⟨size, rfl⟩))) h

theorem tickDevice_of_not_tmr (hk : kindOf s.cfg d ≠ some .tmr) :
    tickDevice d s = applyEffect d (Config.tick d (devView s d)) s := by
  unfold tickDevice
  split
  · exact absurd ‹_› hk
  · rfl

/-- Settles O46: the tick applies the open function's effect, a sequence of the device's own steps. -/
theorem openDeviceTick : Obligations.OpenDeviceTick := by
  intro s d hp hk ha hr herr
  have hexec := (TickAllowed.mk hp ha hr).exec_of_no_error herr
  have hsteps := tickDevice_steps d s ha
  rw [tickDevice_of_not_tmr hk] at hexec hsteps
  have hsame := deviceSteps_sameFabric hsteps
  have hram := ram_deviceSteps hsteps (not_ram_of_autonomous ha)
  have hcells := isSome_mapGet_deviceSteps hsteps
  have henable (ctl) := enableOf_deviceSteps_other (ctl := ctl) hsteps (controllerId_ne_of_autonomous ha)
  refine ⟨_, hexec, rfl, rfl, hsame.phase, hsame.ranges, hram, hsame.run,
    hsame.shouldHalt, hsame.cfg, hsame.conn .sec, hsame.conn .pri, hsame.pending, hsame.sawRefusal,
    henable, fun e hne => ?others,
    fun ctl id hd => ?lines, hcells⟩
  case others =>
    have huntouched := untouched_of_deviceSteps_other hsteps hne
    exact ⟨huntouched.cells, huntouched.other⟩
  case lines =>
    rw [controller_respond]
    by_contra hchanged
    exact Bool.eq_false_iff.1 hd (drives_of_deviceSteps_raw_ne hsteps hchanged)

end Sys2Proof.Proofs
end

section
/-! The reference timer: what its tick and a write to `TMR_STAT` do to its cells and to the line of its output
(44_device_threads.md R206, R207). -/

namespace Sys2Proof.Proofs

open Sys2Proof.Machine Sys2Proof.Safety Sys2Proof.Laws

variable {s t : State} {d : Ident} {ctl : Ctrl} {j : Nat} {v : Word}

/-! ### The output -/

theorem deviceSetLine_raw (hj : j < 32) (ctl' : Ctrl) (id : Nat) (b : Bool) :
    (controller (deviceSetLine d ctl' id b s) ctl).raw.getLsbD j =
      if (ctl = ctl' ∧ j = id) ∧ drives s d ctl j = true then b else (controller s ctl).raw.getLsbD j := by
  by_cases hline : ctl = ctl' ∧ j = id
  · obtain ⟨rfl, rfl⟩ := hline
    by_cases hd : drives s d ctl j = true
    · rw [deviceSetLine, if_pos hd, setRaw_raw, if_pos ⟨rfl, rfl, hj⟩, if_pos ⟨⟨rfl, rfl⟩, hd⟩]
    · rw [deviceSetLine, if_neg hd, if_neg fun ⟨_, h⟩ => hd h]
  · rw [if_neg fun ⟨h, _⟩ => hline h]
    unfold deviceSetLine
    split
    · exact not_not.1 fun hne => hline (eq_of_setRaw_raw_ne hne)
    · rfl

/-- `set_line(IRQ_OUT[d], b)` writes the raw bit of the output's line where `d` drives it. -/
theorem driveOutput_raw (hj : j < 32) (b : Bool) :
    (controller (driveOutput d b s) ctl).raw.getLsbD j =
      if irqOutOf s.cfg d = some ⟨ctl, j⟩ ∧ drives s d ctl j = true then b
      else (controller s ctl).raw.getLsbD j := by
  unfold driveOutput
  cases hout : irqOutOf s.cfg d with
  | none => simp
  | some l =>
    obtain ⟨ctl', id⟩ := l
    simp only [deviceSetLine_raw hj, Option.some.injEq, LineRef.mk.injEq, @eq_comm _ ctl' ctl, @eq_comm _ id j]

/-- After a write to a cell the output names the same line. -/
theorem driveOutput_setCell_raw (hj : j < 32) (b : Bool) (off : Nat) (v : Word) :
    (controller (driveOutput d b (setCell d off v s)) ctl).raw.getLsbD j =
      if irqOutOf s.cfg d = some ⟨ctl, j⟩ ∧ drives s d ctl j = true then b
      else (controller s ctl).raw.getLsbD j := by
  have hsame := setCell_sameFabric d off v s
  rw [driveOutput_raw hj, hsame.cfg, drives_of_sameFabric hsame, controller_setCell]

/-! ### The frame -/

/-- Only cells and raw bits differ. -/
def OnlyCellsAndRaw (s t : State) : Prop :=
  { t with bank := s.bank, sec := ⟨s.sec.raw, t.sec.conn⟩, pri := ⟨s.pri.raw, t.pri.conn⟩ } = s

theorem OnlyCellsAndRaw.refl (s : State) : OnlyCellsAndRaw s s := rfl

theorem OnlyCellsAndRaw.setCell (h : OnlyCellsAndRaw s t) (off : Nat) (v : Word) :
    OnlyCellsAndRaw s (setCell d off v t) := by
  obtain ⟨b, hb⟩ := setCell_eq_setBank d off v t
  rw [hb]
  exact h

theorem OnlyCellsAndRaw.setRaw (h : OnlyCellsAndRaw s t) (ctl : Ctrl) (id : Nat) (b : Bool) :
    OnlyCellsAndRaw s (setRaw ctl id b t) := by
  obtain ⟨r, q, hrq⟩ := setRaw_eq ctl id b t
  rw [hrq]
  exact h

theorem OnlyCellsAndRaw.driveOutput (h : OnlyCellsAndRaw s t) (b : Bool) : OnlyCellsAndRaw s (driveOutput d b t) := by
  unfold Machine.driveOutput deviceSetLine
  split
  · split
    · exact h.setRaw _ _ b
    · exact h
  · exact h

theorem OnlyCellsAndRaw.respond (h : OnlyCellsAndRaw s t) (x : Data) :
    { respond x t with
      bank := s.bank, sec := ⟨s.sec.raw, t.sec.conn⟩, pri := ⟨s.pri.raw, t.pri.conn⟩, response := s.response } = s :=
  congrArg (State.setResponse · s.response) h

/-! ### The tick -/

/-- The counter of timer `d` one further. -/
def countUp (d : Ident) (s : State) : State :=
  setCell d 0x04 (highWord (tmrCount s d + 1)) (setCell d 0x00 (lowWord (tmrCount s d + 1)) s)

theorem tickTmr_eq_countUp (d : Ident) (s : State) :
    tickTmr d s = if (cellValue s d 0x08).setWidth 64 ≤ tmrCount s d + 1
      then driveOutput d true (setCell d 0x0C 1 (countUp d s)) else countUp d s := by
  simp only [elapsed_iff]
  rfl

theorem mapGet_countUp {key : Nat} (hlow : key ≠ cellKey d 0x00) (hhigh : key ≠ cellKey d 0x04) :
    mapGet (countUp d s).bank key = mapGet s.bank key := by
  rw [countUp, mapGet_setCell_other _ _ _ _ hhigh, mapGet_setCell_other _ _ _ _ hlow]

@[simp] theorem controller_countUp (d : Ident) (s : State) (ctl : Ctrl) :
    controller (countUp d s) ctl = controller s ctl := by
  rw [countUp, controller_setCell, controller_setCell]

theorem cellValue_countUp_stat (d : Ident) (s : State) : cellValue (countUp d s) d 0x0C = cellValue s d 0x0C := by
  rw [cellValue, cellValue, mapGet_countUp (cellKey_ne_of_offset_ne d (by decide))
    (cellKey_ne_of_offset_ne d (by decide))]

theorem countUp_sameFabric (d : Ident) (s : State) : SameFabric s (countUp d s) :=
  (setCell_sameFabric _ _ _ _).trans (setCell_sameFabric _ _ _ _)

theorem hasCell_countUp (d : Ident) (s : State) (sl : Ident) (off : Nat) :
    hasCell (countUp d s) sl off = hasCell s sl off := by
  rw [countUp, hasCell_setCell, hasCell_setCell]

theorem mapGet_tickTmr {key : Nat} (hlow : key ≠ cellKey d 0x00) (hhigh : key ≠ cellKey d 0x04)
    (hstat : key ≠ cellKey d 0x0C) : mapGet (tickTmr d s).bank key = mapGet s.bank key := by
  rw [tickTmr_eq_countUp]
  split
  · rw [driveOutput_bank, mapGet_setCell_other _ _ _ _ hstat, mapGet_countUp hlow hhigh]
  · exact mapGet_countUp hlow hhigh

/-- A tick never clears `PEND`; it sets it where the comparator has elapsed. -/
theorem cellValue_tickTmr_stat (hcell : hasCell s d 0x0C = true) :
    cellValue (tickTmr d s) d 0x0C =
      if (cellValue s d 0x08).setWidth 64 ≤ tmrCount s d + 1 then 1 else cellValue s d 0x0C := by
  rw [tickTmr_eq_countUp]
  split
  · rw [cellValue_frame (driveOutput_bank _ _ _), cellValue_setCell_same _ _ _ _ ?_]
    exact (hasCell_countUp d s d 0x0C).trans hcell
  · exact cellValue_countUp_stat d s

/-- A tick never clears a line; it sets the output where the comparator has elapsed. -/
theorem tickTmr_raw (hj : j < 32) :
    (controller (tickTmr d s) ctl).raw.getLsbD j =
      if (cellValue s d 0x08).setWidth 64 ≤ tmrCount s d + 1 ∧ irqOutOf s.cfg d = some ⟨ctl, j⟩ ∧
        drives s d ctl j = true then true else (controller s ctl).raw.getLsbD j := by
  rw [tickTmr_eq_countUp]
  split
  · rename_i helapsed
    have hsame := countUp_sameFabric d s
    rw [driveOutput_setCell_raw hj, hsame.cfg, drives_of_sameFabric hsame, controller_countUp]
    simp only [helapsed, true_and]
  · rename_i hearly
    rw [controller_countUp, if_neg fun ⟨helapsed, _⟩ => hearly helapsed]

theorem tickTmr_frame (d : Ident) (s : State) : OnlyCellsAndRaw s (tickTmr d s) := by
  have hcount : OnlyCellsAndRaw s (countUp d s) := ((OnlyCellsAndRaw.refl s).setCell _ _).setCell _ _
  rw [tickTmr_eq_countUp]
  split
  · exact (hcount.setCell _ _).driveOutput true
  · exact hcount

theorem hasCell_tmrStat (h : BanksComplete s) (hk : kindOf s.cfg d = some .tmr) : hasCell s d 0x0C = true :=
  h.fixed_cells d .tmr hk (0x0C, newCell "TMR_STAT" 0) (by decide)

/-- Settles O43: the tick that answers is the timer's own, component by component. -/
theorem timerTick : Obligations.TimerTick := by
  intro s d hp hk hrun herr hbanks _
  refine ⟨_, exec_tick_tmr hp hk hrun herr, rfl, tmrCount_tickTmr (hasCounter_of_banksComplete hbanks hk),
    cellValue_tickTmr_stat (hasCell_tmrStat hbanks hk), fun key => mapGet_tickTmr, fun ctl j hj => ?_,
    (tickTmr_frame d s).respond .none⟩
  rw [controller_respond]
  exact tickTmr_raw hj

/-! ### The write to `TMR_STAT` -/

theorem getLsbD_writeOneToClear (old v : Word) :
    (old &&& ~~~v &&& 1).getLsbD 0 = (old.getLsbD 0 && !v.getLsbD 0) := by
  have hone : (1 : Word).getLsbD 0 = true := rfl
  simp only [BitVec.getLsbD_and, BitVec.getLsbD_not, hone, Nat.ofNat_pos, decide_true, Bool.true_and, Bool.and_true]

/-- The write clears `PEND` exactly where it is set and bit 0 of the value is 1. -/
theorem clears_pend_iff (old v : Word) :
    (old.getLsbD 0 = true ∧ (old &&& ~~~v &&& 1).getLsbD 0 = false) ↔ old.getLsbD 0 = true ∧ v.getLsbD 0 = true :=
  and_congr_right fun hold => by rw [getLsbD_writeOneToClear, hold, Bool.true_and, Bool.not_eq_false']

theorem writeTmrStat_eq (d : Ident) (v : Word) (s : State) :
    writeTmrStat d v s =
      if (cellValue s d 0x0C).getLsbD 0 = true ∧ v.getLsbD 0 = true
      then driveOutput d false (setCell d 0x0C (cellValue s d 0x0C &&& ~~~v &&& 1) s)
      else setCell d 0x0C (cellValue s d 0x0C &&& ~~~v &&& 1) s := by
  simp only [writeTmrStat, clears_pend_iff]

theorem mapGet_writeTmrStat {key : Nat} (hstat : key ≠ cellKey d 0x0C) :
    mapGet (writeTmrStat d v s).bank key = mapGet s.bank key := by
  rw [writeTmrStat_eq]
  split
  · rw [driveOutput_bank, mapGet_setCell_other _ _ _ _ hstat]
  · exact mapGet_setCell_other _ _ _ _ hstat

/-- The output falls with `PEND`, and no other line changes. -/
theorem writeTmrStat_raw (hj : j < 32) :
    (controller (writeTmrStat d v s) ctl).raw.getLsbD j =
      if (cellValue s d 0x0C).getLsbD 0 = true ∧ v.getLsbD 0 = true ∧ irqOutOf s.cfg d = some ⟨ctl, j⟩ ∧
        drives s d ctl j = true then false else (controller s ctl).raw.getLsbD j := by
  rw [writeTmrStat_eq]
  split
  · rename_i hclear
    obtain ⟨hpend, hv⟩ := hclear
    rw [driveOutput_setCell_raw hj]
    simp only [hpend, hv, true_and]
  · rename_i hkeep
    rw [controller_setCell, if_neg fun ⟨hpend, hv, _⟩ => hkeep ⟨hpend, hv⟩]

theorem writeTmrStat_frame (d : Ident) (v : Word) (s : State) : OnlyCellsAndRaw s (writeTmrStat d v s) := by
  have hcell := (OnlyCellsAndRaw.refl s).setCell (d := d) 0x0C (cellValue s d 0x0C &&& ~~~v &&& 1)
  rw [writeTmrStat_eq]
  split
  · exact hcell.driveOutput false
  · exact hcell

theorem exec_write_tmrStat {i : Instr} {m : Ident} {addr : DWord} {u : Bool} {r : Range}
    (hi : accessOf i = some ⟨m, addr, 4, u, .write⟩) (hin : InRange s addr 4 r) (hk : PlainSlave s r.slave .tmr)
    (hoff : localOffset r addr = 0x0C) :
    exec i s = .next (respond .none (writeTmrStat r.slave (lowWord (writeValue i)) s)) := by
  have hacc : BankAccess s ⟨m, addr, 4, u, .write⟩ r .tmr :=
    ⟨hin, admitted_of_plainSlave hk m _ _, rfl, by simp [hoff]⟩
  have hclass : bankClass s r.slave .tmr (localOffset r addr) .write = .override := bankClass_of_overrideAt hoff
  exact hacc.exec_writeWord hi (by simp [hclass]) (bankWriteWord_of_override hclass _)

/-- Settles O50: the word write is the override of `TMR_STAT`, component by component. -/
theorem timerStatusWrite : Obligations.TimerStatusWrite := by
  rintro i s m addr u r d v hi rfl hin rfl hk hoff hcell -
  refine ⟨_, exec_write_tmrStat hi hin hk hoff, rfl, cellValue_writeTmrStat hcell _, fun key => mapGet_writeTmrStat,
    fun ctl j hj => ?_, (writeTmrStat_frame _ _ s).respond .none⟩
  rw [controller_respond]
  exact writeTmrStat_raw hj

end Sys2Proof.Proofs
end

section
/-! The raw bit of a timer's output is its `PEND` (44_device_threads.md R209): what the timer's own functions, the
operations of others and the wiring of its line keep of it. -/

namespace Sys2Proof.Proofs

open Sys2Proof.Machine Sys2Proof.Safety Sys2Proof.Laws

variable {s t : State} {i : Instr} {d : Ident}

/-- The invariant of the reference timer (`PendMatchesLine`) of the one timer `d`. -/
structure PendAgrees (s : State) (d : Ident) : Prop where
  raw_eq_pend : ∀ ctl id, irqOutOf s.cfg d = some ⟨ctl, id⟩ → drives s d ctl id = true →
    (controller s ctl).raw.getLsbD id = pend s d
  config_clear : s.phase = .config → pend s d = false

theorem pendMatchesLine_iff : PendMatchesLine s ↔ ∀ d, kindOf s.cfg d = some .tmr → PendAgrees s d where
  mp h d hk := ⟨fun ctl id hout hd => h.raw_eq_pend d ⟨ctl, id⟩ hk hout hd, fun hp => h.config_clear hp d hk⟩
  mpr h := ⟨fun d l hk hout hd => (h d hk).raw_eq_pend l.ctrl l.id hout hd, fun hp d hk => (h d hk).config_clear hp⟩

/-- Where board, wiring, `PEND` and the raw bits of the timer's lines stay, and no phase leads back to `CONFIG`, the
invariant stays. -/
theorem PendAgrees.frame (h : PendAgrees s d) (hc : t.cfg = s.cfg) (hp : t.phase = .config → s.phase = .config)
    (hdrv : ∀ ctl id, drives t d ctl id = drives s d ctl id)
    (hraw : ∀ ctl id, drives s d ctl id = true →
      (controller t ctl).raw.getLsbD id = (controller s ctl).raw.getLsbD id)
    (hpend : pend t d = pend s d) : PendAgrees t d where
  raw_eq_pend ctl id hout hd := by
    rw [hdrv] at hd
    rw [hraw ctl id hd, hpend]
    exact h.raw_eq_pend ctl id (hc ▸ hout) hd
  config_clear hph := hpend.trans (h.config_clear (hp hph))

theorem pend_frame (h : t.bank = s.bank) (d : Ident) : pend t d = pend s d := by
  rw [pend, cellValue_frame h, pend]

theorem PendAgrees.of_same_lines (h : PendAgrees s d) (hc : t.cfg = s.cfg) (hp : t.phase = .config → s.phase = .config)
    (hctl : ∀ ctl, controller t ctl = controller s ctl) (hb : t.bank = s.bank) : PendAgrees t d :=
  h.frame hc hp (fun ctl id => by rw [drives, drives, lineDriver, lineDriver, hc, hctl])
    (fun ctl _ _ => by rw [hctl]) (pend_frame hb d)

theorem PendAgrees.respond (h : PendAgrees s d) (x : Data) : PendAgrees (respond x s) d :=
  h.of_same_lines rfl id (controller_respond x s) rfl

theorem pend_of_untouched (h : Untouched s t d) : pend t d = pend s d := by
  rw [pend, pend, cellValue, cellValue, h.cells 0x0C (by decide)]

/-! ### The timer's own functions -/

/-- A timer whose status register exists, on a board whose controllers have at most 32 lines. -/
structure TimerReady (s : State) (d : Ident) : Prop where
  kind : kindOf s.cfg d = some .tmr
  stat : hasCell s d 0x0C = true
  width : ∀ ctl, lineCount s.cfg ctl ≤ 32

theorem timerReady (hcfg : s.cfg.lineCountsOk = true) (h : BanksComplete s) (hk : kindOf s.cfg d = some .tmr) :
    TimerReady s d :=
  ⟨hk, hasCell_tmrStat h hk, lineCount_le hcfg⟩

theorem TimerReady.steps (h : TimerReady s d) (steps : DeviceSteps d s t) : TimerReady t d where
  kind := (deviceSteps_sameFabric steps).cfg ▸ h.kind
  stat := (deviceSteps_hasCell steps d 0x0C).trans h.stat
  width := (deviceSteps_sameFabric steps).cfg ▸ h.width

theorem TimerReady.line_lt (h : TimerReady s d) {ctl : Ctrl} {id : Nat} (hd : drives s d ctl id = true) : id < 32 := by
  obtain ⟨hid, -⟩ := drives_iff.1 hd
  exact hid.trans_le (h.width ctl)

/-- The timer's own steps keep the invariant where they keep the raw bit of the output equal to `PEND` and set no `PEND`
in `CONFIG`. -/
theorem PendAgrees.of_steps (steps : DeviceSteps d s t)
    (hraw : ∀ ctl id, irqOutOf s.cfg d = some ⟨ctl, id⟩ → drives s d ctl id = true →
      (controller t ctl).raw.getLsbD id = pend t d)
    (hclear : s.phase = .config → pend t d = false) : PendAgrees t d where
  raw_eq_pend ctl id hout hd := by
    have hsame := deviceSteps_sameFabric steps
    rw [hsame.cfg] at hout
    rw [drives_of_sameFabric hsame] at hd
    exact hraw ctl id hout hd
  config_clear hp := hclear ((deviceSteps_sameFabric steps).phase ▸ hp)

/-- The tick sets `PEND` and the line together, or neither; no timer ticks in `CONFIG` (44_device_threads.md R206). -/
theorem PendAgrees.tickTmr (h : PendAgrees s d) (hr : TimerReady s d) (hp : s.phase ≠ .config) :
    PendAgrees (tickTmr d s) d := by
  refine .of_steps (tickTmr_steps d s hr.kind) (fun ctl id hout hd => ?_) fun hph => absurd hph hp
  rw [tickTmr_raw (hr.line_lt hd), pend, cellValue_tickTmr_stat hr.stat]
  by_cases helapsed : (cellValue s d 0x08).setWidth 64 ≤ tmrCount s d + 1
  · rw [if_pos ⟨helapsed, hout, hd⟩, if_pos helapsed]
    rfl
  · rw [if_neg fun ⟨h, _⟩ => helapsed h, if_neg helapsed]
    exact h.raw_eq_pend ctl id hout hd

theorem pend_writeTmrStat (hcell : hasCell s d 0x0C = true) (v : Word) :
    pend (writeTmrStat d v s) d = (pend s d && !v.getLsbD 0) := by
  rw [pend, cellValue_writeTmrStat hcell, getLsbD_writeOneToClear, pend]

/-- A write to `TMR_STAT` clears `PEND` and the line together, or neither (44_device_threads.md R207). -/
theorem PendAgrees.writeTmrStat (h : PendAgrees s d) (hr : TimerReady s d) (v : Word) :
    PendAgrees (writeTmrStat d v s) d := by
  refine .of_steps (writeTmrStat_steps d v s hr.kind) (fun ctl id hout hd => ?_) fun hp => ?_
  · have hagree := h.raw_eq_pend ctl id hout hd
    rw [writeTmrStat_raw (hr.line_lt hd), pend_writeTmrStat hr.stat, hagree]
    by_cases hclear : pend s d = true ∧ v.getLsbD 0 = true
    · obtain ⟨hpend, hv⟩ := hclear
      rw [if_pos ⟨hpend, hv, hout, hd⟩, hv, Bool.not_true, Bool.and_false]
    · rw [if_neg fun ⟨hpend, hv, _⟩ => hclear ⟨hpend, hv⟩]
      cases hpend : pend s d with
      | false => rfl
      | true => rw [Bool.eq_false_iff.2 fun hv => hclear ⟨hpend, hv⟩]; rfl
  · rw [pend_writeTmrStat hr.stat, h.config_clear hp, Bool.false_and]

/-- A plain cell of a timer is not its status register. -/
theorem PendAgrees.setCell (h : PendAgrees s d) {off : Nat} (hoff : off ≠ 0x0C) (v : Word) :
    PendAgrees (setCell d off v s) d := by
  have hsame := setCell_sameFabric d off v s
  refine h.frame hsame.cfg (fun hp => hsame.phase ▸ hp) (drives_of_sameFabric hsame d)
    (fun ctl _ _ => by rw [controller_setCell]) ?_
  rw [pend, cellValue_setCell_other _ _ _ _ _ _ (cellKey_ne_of_offset_ne d hoff.symm), pend]

theorem PendAgrees.bankWriteWord (h : PendAgrees s d) (hr : TimerReady s d) (off : Nat) (v : Word) :
    PendAgrees (bankWriteWord d .tmr off v s) d := by
  cases hclass : bankClass s d .tmr off .write with
  | override =>
    rw [bankWriteWord_of_override hclass]
    exact h.writeTmrStat hr v
  | cell =>
    obtain ⟨-, hplain, -⟩ := cell_class_write hclass
    rw [bankWriteWord_of_cell hclass]
    exact h.setCell (by simpa [writeOverrides] using hplain) v
  | reserved => rwa [bankWriteWord_of_reserved hclass]
  | dflt => rwa [bankWriteWord_of_dflt hclass]
  | undecoded => simpa only [Machine.bankWriteWord, hclass] using h

theorem PendAgrees.slaveWrite (h : PendAgrees s d) (hr : TimerReady s d) (m : Ident) (off len : Nat) (v : DWord) :
    PendAgrees (slaveWrite d m off len v s) d := by
  rw [slaveWrite_bank hr.kind rfl, bankWrite]
  split
  · have hsteps := bankWriteWord_steps d .tmr off (lowWord v) s hr.kind
    exact (h.bankWriteWord hr off _).bankWriteWord (hr.steps hsteps) (off + 4) _
  · exact h.bankWriteWord hr off _

theorem PendAgrees.writeBytes (h : PendAgrees s d) (hr : TimerReady s d) (m : Ident) (off : Nat) (bs : List Byte)
    (hend : off + bs.length ≤ 2 ^ 64) : PendAgrees (writeBytes d m off bs s) d := by
  induction bs generalizing off s with
  | nil => exact h
  | cons b bs ih =>
    rw [List.length_cons] at hend
    have hsteps := slaveWrite_steps d m off 1 (b.setWidth 64) s (by omega)
    exact ih (h.slaveWrite hr m off 1 _) (hr.steps hsteps) (off + 1) (by omega)

theorem PendAgrees.slaveWriteU (h : PendAgrees s d) (hr : TimerReady s d) (m : Ident) (off len : Nat) (v : DWord)
    (hend : off + len ≤ 2 ^ 64) : PendAgrees (slaveWriteU d m off len v s) d := by
  unfold Machine.slaveWriteU
  split
  · exact h.slaveWrite hr m off len v
  · exact h.writeBytes hr m off _ (by rwa [bytesLe_length])

/-! ### Operations and steps -/

/-- An access that the timer serves keeps the invariant: a read changes nothing, a write is the timer's own. -/
theorem PendAgrees.served (h : PendAgrees s d) (hr : TimerReady s d) {a : Access} {r : Range} (hs : Served s a r)
    (hi : accessOf i = some a) (hd : r.slave = d) (hexec : exec i s = .next t) : PendAgrees t d := by
  subst hd
  cases hdir : a.dir with
  | read =>
    cases hexec.symm.trans (hs.exec_read hi hdir)
    rw [slaveReadU_snd (.inr (.inr (.inl rfl))) hr.kind]
    exact h.respond _
  | write =>
    cases hexec.symm.trans (hs.exec_write hi hdir)
    exact (h.slaveWriteU hr _ _ _ _ (inRange_lt hs.in_range)).respond _

/-- A line without a driver has raw bit 0 (43_interrupt_fabric.md R176). -/
theorem raw_of_unconnected (h : LinesWired s) {ctl : Ctrl} {id : Nat} (hno : lineDriver s ctl id = none) :
    (controller s ctl).raw.getLsbD id = false := by
  refine Bool.eq_false_iff.2 fun hraw => ?_
  obtain ⟨e, he⟩ := h.raw_driven ctl id hraw
  obtain ⟨-, -, hdrv⟩ := drives_iff.1 he
  cases hno.symm.trans hdrv

/-- No operation leads back to `CONFIG` (10_state.md R13). -/
theorem config_of_opEffect (h : OpEffect i s t) (hp : t.phase = .config) : s.phase = .config := by
  cases h with
  | access _ _ _ _ _ _ _ steps => exact (deviceSteps_sameFabric steps).phase ▸ hp
  | tick d _ _ ha => exact (deviceSteps_sameFabric (tickDevice_steps d s ha)).phase ▸ hp
  | setLine ctl _ id b => exact (setRaw_sameFabric ctl id.toNat b s).phase ▸ hp
  | connect _ _ _ _ hconfig => exact hconfig
  | configError _ hconfig => exact hconfig
  | start => cases hp
  | halt => cases hp
  | _ => exact hp

theorem bindLine_bank (ctl : Ctrl) (id : Nat) (e : Ident) (s : State) : (bindLine ctl id e s).bank = s.bank := by
  cases ctl <;> rfl

/-- A line newly bound to the timer has raw bit 0, as every unconnected line, and the timer has no `PEND` before
start. -/
theorem PendAgrees.bindLine (h : PendAgrees s d) (hl : LinesWired s) (hp : s.phase = .config) {ctl : Ctrl} {id : Nat}
    (hno : lineDriver s ctl id = none) (e : Ident) : PendAgrees (bindLine ctl id e s) d := by
  have hpend : pend (Machine.bindLine ctl id e s) d = pend s d := pend_frame (bindLine_bank ctl id e s) d
  refine ⟨fun ctl' j hout hd => ?_, fun _ => hpend.trans (h.config_clear hp)⟩
  rw [bindLine_raw, hpend]
  rw [bindLine_cfg] at hout
  obtain ⟨hid, hcas, hdrv⟩ := drives_iff.1 hd
  rw [bindLine_cfg] at hid hcas
  rw [lineDriver_bindLine] at hdrv
  split at hdrv
  · rename_i hline
    obtain ⟨rfl, rfl⟩ := hline
    rw [raw_of_unconnected hl hno, h.config_clear hp]
  · exact h.raw_eq_pend ctl' j hout (drives_iff.2 ⟨hid, hcas, hdrv⟩)

theorem PendAgrees.untouched (h : PendAgrees s d) (hu : Untouched s t d) (hc : t.cfg = s.cfg)
    (hp : t.phase = .config → s.phase = .config) (hdrv : ∀ ctl id, drives t d ctl id = drives s d ctl id) :
    PendAgrees t d :=
  h.frame hc hp hdrv hu.lines (pend_of_untouched hu)

theorem PendAgrees.otherSteps (h : PendAgrees s d) {e : Ident} (steps : DeviceSteps e s t) (hne : d ≠ e) :
    PendAgrees t d := by
  have hsame := deviceSteps_sameFabric steps
  exact h.untouched (untouched_of_deviceSteps_other steps hne) hsame.cfg (fun hp => hsame.phase ▸ hp)
    (drives_of_sameFabric hsame d)

/-- Every operation but a `SET_LINE_*` in a timer's name keeps the invariant of every timer. -/
theorem PendAgrees.exec (h : PendAgrees s d) (hr : TimerReady s d) (hinv : FabricInv s)
    (hset : ¬ setsTimerLine s.cfg i) (hexec : exec i s = .next t) : PendAgrees t d := by
  have hphase := config_of_opEffect (exec_next_effect hexec)
  cases exec_next_effect hexec with
  | access a r u x hi hp hm steps =>
    by_cases hd : r.slave = d
    · obtain ⟨q, hserved⟩ := (exec_ok_iff_served hi).1 ⟨_, x, hexec, rfl⟩
      obtain ⟨-, hq, -⟩ := hserved.in_range
      cases Option.some.inj (hm.symm.trans hq)
      exact h.served hr hserved hi hd hexec
    · exact (h.otherSteps steps (Ne.symm hd)).respond x
  | tick e hi hp ha hrun =>
    by_cases hd : e = d
    · subst hd
      rw [tickDevice_of_tmr hr.kind]
      have hphase : s.phase = .run := phase_of_running hinv.lifecycle ha hrun
      exact (h.tickTmr hr (by simp [hphase])).respond .none
    · exact (h.otherSteps (tickDevice_steps e s ha) (Ne.symm hd)).respond .none
  | setLine ctl e id b hi hp he =>
    have hne : d ≠ e := by
      rintro rfl
      exact hset ⟨ctl, d, id, b, by cases ctl <;> exact hi, hr.kind⟩
    exact (h.otherSteps (deviceSteps_setRaw he b) hne).respond .none
  | addRegister sl o rv hi hp hk =>
    have hne : d ≠ sl := by
      rintro rfl
      obtain ⟨b, hb⟩ := isBank_iff.1 hk
      cases hb.symm.trans hr.kind
    exact (h.untouched (untouched_addRegister_other hne o _) rfl id fun ctl _ => by cases ctl <;> rfl).respond .none
  | connect ctl e id hi hp hid hc hno => exact (h.bindLine hinv.lines hp hno e).respond .none
  | _ => exact h.of_same_lines (by rfl) hphase (fun ctl => by cases ctl <;> rfl) (by rfl)

theorem PendAgrees.bookkeeping (h : PendAgrees s d) (p : List Request) (r : Option Response) (b : Bool) :
    PendAgrees { s with pending := p, response := r, sawRefusal := b } d :=
  h.of_same_lines rfl id (fun ctl => by cases ctl <;> rfl) rfl

/-- Settles O59: the invariant timer by timer, through the operation a request decodes to. -/
theorem stepKeepsPendMatchesLine : Obligations.StepKeepsPendMatchesLine := by
  intro s t hcfg hinv hmatch hset hstep
  rcases step_effect hstep with ⟨-, rfl⟩ | ⟨q, rest, hq, ⟨e, -, rfl⟩ | ⟨i, hi, heffect⟩⟩
  · exact hmatch
  · exact pendMatchesLine_iff.2 fun d hk => (pendMatchesLine_iff.1 hmatch d hk).bookkeeping rest _ _
  · have hexec : exec i (s.setPending rest) = .next t := (step_of_decodeRecord_ok hq hi).symm.trans hstep
    refine pendMatchesLine_iff.2 fun d hk => ?_
    rw [(responded_of_opEffect heffect).cfg] at hk
    have hagree : PendAgrees (s.setPending rest) d := (pendMatchesLine_iff.1 hmatch d hk).bookkeeping rest _ _
    have hinv' := fabricInv_setPending hinv rest
    exact hagree.exec (timerReady hcfg hinv'.banks hk) hinv' (hset q rest i hq hi) hexec

end Sys2Proof.Proofs
end

section
/-! The three ways an operation fails: what a bus fault, a configuration error and a refusal leave behind (60_exceptions.md
R233, R234, R236), and in which phases the phase itself is the reason (60_exceptions.md R246). -/

namespace Sys2Proof.Proofs

open Sys2Proof.Machine Sys2Proof.Safety Sys2Proof.Laws

variable {s t : State} {i : Instr}

/-! ### The response names the effect -/

/-- Only an access ends in a bus fault, and the fault's record holds the operands of that access. -/
theorem eq_raiseBusFault_of_response {kind : BusFaultKind} {addr : DWord} {len : Nat} {dir : Dir} {m : Ident}
    (h : OpEffect i s t) (hresp : t.response = some (.busFault kind addr len dir m)) :
    (∃ u, accessOf i = some ⟨m, addr, len, u, dir⟩) ∧ t = raiseBusFault kind addr len dir m s := by
  cases h with
  | busFault acc k hi =>
    cases hresp
    exact ⟨⟨acc.unaligned, hi⟩, rfl⟩
  | _ => cases hresp

theorem eq_refuse_of_response {why : RefuseReason} (h : OpEffect i s t)
    (hresp : t.response = some (.refused why)) : t = refuse why s := by
  cases h with
  | refused w =>
    cases hresp
    rfl
  | _ => cases hresp

theorem eq_raiseConfigError_of_response {kind : ConfigErrorKind} (h : OpEffect i s t)
    (hresp : t.response = some (.configError kind)) : s.phase = .config ∧ t = raiseConfigError kind s := by
  cases h with
  | configError k hp =>
    cases hresp
    exact ⟨hp, rfl⟩
  | _ => cases hresp

/-- Settles O13: the faulting access is the fault's record, and raising the fault is the response alone. -/
theorem busFaultsArePrecise : Obligations.BusFaultsArePrecise := by
  intro i s t kind addr len dir m hexec hresp
  obtain ⟨haccess, rfl⟩ := eq_raiseBusFault_of_response (exec_next_effect hexec) hresp
  exact ⟨haccess, rfl⟩

/-- Settles O14: a refusal is the response and the mark. -/
theorem refusalsChangeNothing : Obligations.RefusalsChangeNothing := by
  intro i s t why hexec hresp
  obtain rfl := eq_refuse_of_response (exec_next_effect hexec) hresp
  rfl

/-- Settles O15: a configuration error ends in `FAILED`, where every operation is refused. -/
theorem configErrorsOnlyFail : Obligations.ConfigErrorsOnlyFail := by
  intro i s t kind hexec hresp
  obtain ⟨hconfig, rfl⟩ := eq_raiseConfigError_of_response (exec_next_effect hexec) hresp
  exact ⟨hconfig, rfl, rfl, fun j => refusedWith_of_refuse (exec_of_failed rfl j)⟩

/-! ### The phase gate of each operation -/

/-- An operation whose first test is the phase, and which has no second test of it. -/
theorem response_ite_refuse_phase {gate : Prop} [Decidable gate]
    (ht : ¬ gate → t.response ≠ some (.refused .phase)) :
    (if gate then refuse .phase s else t).response = some (.refused .phase) ↔ gate := by
  by_cases hgate : gate
  · rw [if_pos hgate]
    exact iff_of_true rfl hgate
  · rw [if_neg hgate]
    exact iff_of_false (ht hgate) hgate

theorem response_busRead_phase_iff {m : Ident} {addr : DWord} {len : Nat} {u : Bool} {wrap : DWord → Data} :
    (busRead m addr len u wrap s).response = some (.refused .phase) ↔ s.phase = .failed := by
  rw [← routeAccess_refused (m := m) (addr := addr) (len := len) (u := u) (dir := .read), busRead]
  cases routeAccess s m addr len u .read <;> simp

theorem response_busWrite_phase_iff {m : Ident} {addr : DWord} {len : Nat} {u : Bool} {v : DWord} :
    (busWrite m addr len u v s).response = some (.refused .phase) ↔ s.phase = .failed := by
  rw [← routeAccess_refused (m := m) (addr := addr) (len := len) (u := u) (dir := .write), busWrite]
  cases routeAccess s m addr len u .write <;> simp

theorem response_busProbe_phase_iff {m : Ident} {addr : DWord} {len : Nat} {dir : Dir} :
    (busProbe m addr len dir s).response = some (.refused .phase) ↔ s.phase = .failed :=
  response_ite_refuse_phase fun _ => by simp

theorem response_queryLevel_phase_iff {level : State → Bool} :
    (queryLevel level s).response = some (.refused .phase) ↔ s.phase = .failed :=
  response_ite_refuse_phase fun _ => by simp

theorem response_setLine_phase_iff {ctl : Ctrl} {d : Ident} {id : DWord} {b : Bool} :
    (setLine ctl d id b s).response = some (.refused .phase) ↔ s.phase = .failed :=
  response_ite_refuse_phase fun _ => by split_ifs <;> simp

theorem response_tickStep_phase_iff {d : Ident} :
    (tickStep d s).response = some (.refused .phase) ↔ s.phase = .failed :=
  response_ite_refuse_phase fun _ => by split_ifs <;> simp

theorem response_addSlave_phase_iff {sl : Ident} {low high : DWord} :
    (addSlave sl low high s).response = some (.refused .phase) ↔ s.phase ≠ .config :=
  response_ite_refuse_phase fun _ => by split_ifs <;> simp

theorem response_addRegister_phase_iff {sl : Ident} {off rv : Word} :
    (addRegister sl off rv s).response = some (.refused .phase) ↔ s.phase ≠ .config :=
  response_ite_refuse_phase fun _ => by split_ifs <;> simp

theorem response_connectLine_phase_iff {ctl : Ctrl} {d : Ident} {id : DWord} :
    (connectLine ctl d id s).response = some (.refused .phase) ↔ s.phase ≠ .config :=
  response_ite_refuse_phase fun _ => by split_ifs <;> simp

theorem response_startAll_phase_iff :
    (startAll s).response = some (.refused .phase) ↔ s.phase = .halted ∨ s.phase = .failed := by
  cases hp : s.phase with
  | config => simp [startAll_of_config hp]
  | run => simp [startAll_of_run hp]
  | halted => simp [startAll_of_halted hp]
  | failed => simp [startAll_of_failed hp]

theorem response_haltAll_phase_iff :
    (haltAll s).response = some (.refused .phase) ↔ s.phase = .config ∨ s.phase = .failed := by
  cases hp : s.phase with
  | config => simp [haltAll_of_config hp]
  | run => simp [haltAll_of_run hp]
  | halted => simp [haltAll_of_halted hp]
  | failed => simp [haltAll_of_failed hp]

/-- The table of 60_exceptions.md R246, operation by operation. -/
theorem exec_response_phase_iff (i : Instr) (s : State) :
    ∃ t, exec i s = .next t ∧ (t.response = some (.refused .phase) ↔ phaseRefuses i s.phase = true) := by
  cases i with
  | read8 | read16 | read32 | read64 | read16u | read32u | read64u =>
    exact ⟨_, rfl, response_busRead_phase_iff.trans decide_eq_true_iff.symm⟩
  | write8 | write16 | write32 | write64 | write16u | write32u | write64u =>
    exact ⟨_, rfl, response_busWrite_phase_iff.trans decide_eq_true_iff.symm⟩
  | canread | canwrite => exact ⟨_, rfl, response_busProbe_phase_iff.trans decide_eq_true_iff.symm⟩
  | irqQ | fiqQ => exact ⟨_, rfl, response_queryLevel_phase_iff.trans decide_eq_true_iff.symm⟩
  | setLineSec | setLinePri => exact ⟨_, rfl, response_setLine_phase_iff.trans decide_eq_true_iff.symm⟩
  | tick => exact ⟨_, rfl, response_tickStep_phase_iff.trans decide_eq_true_iff.symm⟩
  | addSlave => exact ⟨_, rfl, response_addSlave_phase_iff.trans decide_eq_true_iff.symm⟩
  | addRegister => exact ⟨_, rfl, response_addRegister_phase_iff.trans decide_eq_true_iff.symm⟩
  | connectLineSec | connectLinePri =>
    exact ⟨_, rfl, response_connectLine_phase_iff.trans decide_eq_true_iff.symm⟩
  | startAll => exact ⟨_, rfl, response_startAll_phase_iff.trans decide_eq_true_iff.symm⟩
  | haltAll => exact ⟨_, rfl, response_haltAll_phase_iff.trans decide_eq_true_iff.symm⟩

/-- Before the start and after the halt no device runs. -/
theorem tickStep_of_not_run (hlife : LifecycleOk s) (hp : s.phase = .config ∨ s.phase = .halted) (d : Ident) :
    tickStep d s = refuse .device s := by
  have hfailed : s.phase ≠ .failed := by rcases hp with hp | hp <;> simp [hp]
  have hrun : s.phase ≠ .run := by rcases hp with hp | hp <;> simp [hp]
  refine tickStep_of_not_ticking hfailed (or_iff_not_imp_left.2 fun hauto hrunning => ?_)
  exact hrun (phase_of_running hlife (Bool.eq_true_of_not_eq_false hauto) hrunning)

/-- Settles O17: the table, and for `TICK` in `CONFIG` and `HALTED` that no device runs there. -/
theorem phaseGate : Obligations.PhaseGate := by
  intro i s
  obtain ⟨t, hexec, hgate⟩ := exec_response_phase_iff i s
  refine ⟨t, hexec, hgate, ?_⟩
  rintro hlife hp d rfl
  cases hexec
  exact congrArg State.response (tickStep_of_not_run hlife hp d)

end Sys2Proof.Proofs
end

section
/-! What of a configuration the operations keep: the tables and the set of cells once `CONFIG` is left, an existing cell's
name and reset value always, and the phase but for its arrows (10_state.md R13; 70_reset_and_hazards.md R261, R262). -/

namespace Sys2Proof.Proofs

open Sys2Proof.Machine Sys2Proof.Safety Sys2Proof.Laws

variable {s t u : State} {i : Instr} {d : Ident}

/-! ### The tables -/

/-- `t` has the range table, the wiring and the set of cells of `s`. -/
structure SameTables (s t : State) : Prop where
  ranges : t.ranges = s.ranges
  conn : ∀ ctl, (controller t ctl).conn = (controller s ctl).conn
  cells : ∀ key, (mapGet t.bank key).isSome = (mapGet s.bank key).isSome

theorem SameTables.respond (h : SameTables s t) (x : Data) : SameTables s (respond x t) where
  ranges := h.ranges
  conn ctl := (congrArg Controller.conn (controller_respond x t ctl)).trans (h.conn ctl)
  cells := h.cells

theorem sameTables_deviceSteps (steps : DeviceSteps d s t) : SameTables s t where
  ranges := (deviceSteps_sameFabric steps).ranges
  conn := (deviceSteps_sameFabric steps).conn
  cells := isSome_mapGet_deviceSteps steps

theorem sameTables_of_opEffect (h : OpEffect i s t) (hp : s.phase ≠ .config) : SameTables s t := by
  cases h with
  | access _ _ _ x _ _ _ steps => exact (sameTables_deviceSteps steps).respond x
  | tick d _ _ ha => exact (sameTables_deviceSteps (tickDevice_steps d s ha)).respond .none
  | setLine _ _ _ b _ _ hd => exact (sameTables_deviceSteps (deviceSteps_setRaw hd b)).respond .none
  | configError _ hconfig => exact absurd hconfig hp
  | addSlave _ _ _ _ hconfig => exact absurd hconfig hp
  | addRegister _ _ _ _ hconfig => exact absurd hconfig hp
  | connect _ _ _ _ hconfig => exact absurd hconfig hp
  | start _ hconfig => exact absurd hconfig hp
  | _ => exact ⟨rfl, fun ctl => by cases ctl <;> rfl, fun _ => rfl⟩

/-! ### The cells -/

/-- Every cell of `s` is in `t` under its name and with its reset value; only its current value may differ. -/
def KeepsCells (s t : State) : Prop :=
  ∀ key cell, mapGet s.bank key = some cell → ∃ v, mapGet t.bank key = some ⟨cell.name, cell.resetValue, v⟩

theorem keepsCells_of_bank_eq (h : t.bank = s.bank) : KeepsCells s t :=
  fun _ cell hcell => ⟨cell.currentValue, by rw [h, hcell]⟩

theorem KeepsCells.trans (h : KeepsCells s t) (g : KeepsCells t u) : KeepsCells s u := by
  intro key cell hcell
  obtain ⟨v, hv⟩ := h key cell hcell
  exact g key ⟨cell.name, cell.resetValue, v⟩ hv

theorem KeepsCells.respond (h : KeepsCells s t) (x : Data) : KeepsCells s (respond x t) :=
  h.trans (keepsCells_of_bank_eq rfl)

theorem keepsCells_setCell (d : Ident) (off : Nat) (v : Word) (s : State) : KeepsCells s (setCell d off v s) := by
  intro key cell hcell
  by_cases hkey : key = cellKey d off
  · subst hkey
    exact ⟨v, by rw [mapGet_setCell_same, hcell, Option.map_some]⟩
  · exact ⟨cell.currentValue, by rw [mapGet_setCell_other _ _ _ _ hkey, hcell]⟩

theorem keepsCells_deviceSteps (steps : DeviceSteps d s t) : KeepsCells s t := by
  induction steps with
  | refl => exact keepsCells_of_bank_eq rfl
  | cell _ _ ih => exact ih.trans (keepsCells_setCell _ _ _ _)
  | ram _ _ _ ih => exact ih
  | other _ ih => exact ih
  | line _ ih => exact ih.trans (keepsCells_of_bank_eq (deviceSetLine_bank _ _ _ _ _))

/-- `ADD_REGISTER` enters a cell only where there is none. -/
theorem keepsCells_addRegister {off : Word} (hno : hasCell s d off.toNat = false) (new : RegCell) :
    KeepsCells s (s.setBank (mapSet s.bank (cellKey d off.toNat) new)) := by
  intro key cell hcell
  have hkey : key ≠ cellKey d off.toNat := by
    rintro rfl
    simp [hasCell_word, hcell] at hno
  exact ⟨cell.currentValue, by rw [setBank_bank, mapGet_mapSet_other _ _ hkey, hcell]⟩

theorem keepsCells_of_opEffect (h : OpEffect i s t) : KeepsCells s t := by
  cases h with
  | access _ _ _ x _ _ _ steps => exact (keepsCells_deviceSteps steps).respond x
  | tick d _ _ ha => exact (keepsCells_deviceSteps (tickDevice_steps d s ha)).respond .none
  | setLine ctl _ id b => exact keepsCells_of_bank_eq (setRaw_bank ctl id.toNat b s)
  | addRegister _ _ _ _ _ _ _ hno => exact keepsCells_addRegister hno _
  | connect ctl d id => exact keepsCells_of_bank_eq (bindLine_bank ctl id.toNat d s)
  | _ => exact keepsCells_of_bank_eq rfl

/-! ### The phase -/

/-- The moves of the phase under one operation: it stays, or takes one of the arrows of 10_state.md R13. -/
def PhaseMoves (i : Instr) (s t : State) : Prop :=
  t.phase = s.phase ∨ (s.phase = .config ∧ i = .startAll ∧ t.phase = .run) ∨
    (s.phase = .run ∧ i = .haltAll ∧ t.phase = .halted) ∨
    (s.phase = .config ∧ t.phase = .failed ∧ ∃ kind, t.response = some (.configError kind))

theorem phaseMoves_of_opEffect (h : OpEffect i s t) : PhaseMoves i s t := by
  cases h with
  | start hi hp => exact .inr (.inl ⟨hp, hi, rfl⟩)
  | halt hi hp => exact .inr (.inr (.inl ⟨hp, hi, rfl⟩))
  | configError kind hp => exact .inr (.inr (.inr ⟨hp, rfl, kind, rfl⟩))
  | access _ _ _ _ _ _ _ steps => exact .inl (deviceSteps_sameFabric steps).phase
  | tick d _ _ ha => exact .inl (deviceSteps_sameFabric (tickDevice_steps d s ha)).phase
  | setLine ctl _ id b => exact .inl (setRaw_sameFabric ctl id.toNat b s).phase
  | connect ctl => exact .inl (by cases ctl <;> rfl)
  | _ => exact .inl rfl

/-- Settles O60: each of the three parts holds of every effect an operation can have. -/
theorem configurationFrozen : Obligations.ConfigurationFrozen := by
  intro i s t hexec
  have heffect := exec_next_effect hexec
  refine ⟨fun hp => ?_, keepsCells_of_opEffect heffect, phaseMoves_of_opEffect heffect⟩
  obtain ⟨hranges, hconn, hcells⟩ := sameTables_of_opEffect heffect hp
  exact ⟨hranges, hconn, hcells⟩

end Sys2Proof.Proofs
end
